-- ==== Sys2Proof/Word.lean ====
section
/-! DEFINITION. The words of the block: segment codes and bus bytes, command words, line levels. -/

namespace Sys2Proof

/-- A segment code, a bus byte or a byte operand: 8 bits (10_state.md R20, 00_scope.md R10). -/
abbrev Byte := BitVec 8

/-- A host command word: 16 bits (30_encoding.md R70). -/
abbrev Word := BitVec 16

/-- The level of a line: 0 is low and 1 is high (00_scope.md R12). -/
inductive Level where
  | low
  | high
  deriving DecidableEq, Repr, Inhabited

end Sys2Proof
end

