-- ==== Sys2Proof/Config.lean ====
section
/-! DEFINITION. The parameters of one block instance (00_scope.md R6 to R9), the constraints the spec puts on them, and
the opaque constants that stand for every value the spec leaves open. -/

namespace Sys2Proof

/-- `N`, the display width: exactly 4 or 6 (00_scope.md R6). -/
inductive Width where
  | four
  | six
  deriving DecidableEq, Repr

/-- The number of segment positions. -/
def Width.count : Width → Nat
  | .four => 4
  | .six => 6

/-- When the framer drives DIO low after the acknowledgement sample (00_scope.md R9, 42_framer.md R128). -/
inductive AckDrivePolicy where
  | onNack
  | onAck
  deriving DecidableEq, Repr

/-- What is fixed for the life of a block instance: no command writes any of it (R6, R9, R109). -/
structure Config where
  width          : Width
  cmdSetData     : Byte
  cmdSetAddr     : Byte
  cmdDisplay     : Byte
  digitTable     : List Byte
  asciiTable     : List Byte
  degreeCode     : Byte
  ackDrivePolicy : AckDrivePolicy
  deriving DecidableEq, Repr

/-- Bit 7, the dot, is clear. -/
def dotClear (x : Byte) : Bool := !x.getLsbD 7

/-- What the spec fixes of the open parameters: table sizes and bit 7 clear in every glyph (41_encoder.md R101, R105,
R107), and the low nibble of CMD_DISPLAY zero (00_scope.md R9, 30_encoding.md R86). -/
def Config.wf (c : Config) : Bool :=
  c.digitTable.length == 16 && c.asciiTable.length == 96
    && c.digitTable.all dotClear && c.asciiTable.all dotClear && dotClear c.degreeCode
    && c.cmdDisplay &&& 0x0F#8 == 0#8

/-! Open values: named by the spec and never given (92_eei_decisions.md D14, D15, D16). No proof can see one.
DESIGN CHOICE, log 3 and 5: safe. -/

opaque Config.openCmdSetData : Byte
opaque Config.openCmdSetAddr : Byte
opaque Config.openCmdDisplay : Byte
opaque Config.openDigit : Nat → Byte
opaque Config.openAscii : Nat → Byte
opaque Config.openDegree : Byte
opaque Config.openBrightReset : BitVec 4

/-- The reset draw of each LIVE entry (10_state.md R38). -/
opaque Config.liveDraw : Nat → Byte

/-- The reset draw of each SCR entry (10_state.md R38). -/
opaque Config.scrDraw : Nat → Byte

/-- The reset draw of ACK_LAST (10_state.md R29, R38). -/
opaque Config.ackLastDraw : Bool

/-- The level of the `k`-th sample that no settled answer covers: a free draw (00_scope.md R13). Log 6: safe. -/
opaque Config.freeSample : Nat → Level

/-- The parameters with every open value an opaque constant, kept inside the spec's constraints. ACK_DRIVE_POLICY is the
spec's default (90_conflicts.md C6; log 7: unsafe if the code follows ON_ACK). -/
def Config.openParams (w : Width) : Config where
  width := w
  cmdSetData := Config.openCmdSetData
  cmdSetAddr := Config.openCmdSetAddr
  cmdDisplay := Config.openCmdDisplay &&& 0xF0#8
  digitTable := (List.range 16).map fun k => Config.openDigit k &&& 0x7F#8
  asciiTable := (List.range 96).map fun k => Config.openAscii k &&& 0x7F#8
  degreeCode := Config.openDegree &&& 0x7F#8
  ackDrivePolicy := .onNack

/-- PRESUMED, log 9: the reference default of DIGIT_TABLE (41_encoder.md, after R101). -/
def Config.referenceDigits : List Byte :=
  [0x3F#8, 0x06#8, 0x5B#8, 0x4F#8, 0x66#8, 0x6D#8, 0x7D#8, 0x07#8,
   0x7F#8, 0x6F#8, 0x77#8, 0x7C#8, 0x39#8, 0x5E#8, 0x79#8, 0x71#8]

/-- PRESUMED, log 9: the reference default of ASCII_TABLE (41_encoder.md, after R107), entries 0 to 95 for the values
32 to 127. -/
def Config.referenceAscii : List Byte :=
  -- 32 to 47
  [0x00#8, 0x30#8, 0x22#8, 0x41#8, 0x6D#8, 0x52#8, 0x7C#8, 0x20#8,
   0x39#8, 0x0F#8, 0x21#8, 0x70#8, 0x08#8, 0x40#8, 0x08#8, 0x52#8] ++
  -- 48 to 63
  [0x3F#8, 0x06#8, 0x5B#8, 0x4F#8, 0x66#8, 0x6D#8, 0x7D#8, 0x07#8,
   0x7F#8, 0x6F#8, 0x48#8, 0x48#8, 0x39#8, 0x48#8, 0x0F#8, 0x53#8] ++
  -- 64 to 79
  [0x5F#8, 0x77#8, 0x7C#8, 0x39#8, 0x5E#8, 0x79#8, 0x71#8, 0x3D#8,
   0x76#8, 0x06#8, 0x1E#8, 0x76#8, 0x38#8, 0x15#8, 0x37#8, 0x3F#8] ++
  -- 80 to 95
  [0x73#8, 0x67#8, 0x31#8, 0x6D#8, 0x78#8, 0x3E#8, 0x1C#8, 0x2A#8,
   0x76#8, 0x6E#8, 0x5B#8, 0x39#8, 0x64#8, 0x0F#8, 0x23#8, 0x08#8] ++
  -- 96 to 111
  [0x20#8, 0x5F#8, 0x7C#8, 0x58#8, 0x5E#8, 0x7B#8, 0x31#8, 0x6F#8,
   0x74#8, 0x04#8, 0x0E#8, 0x75#8, 0x30#8, 0x55#8, 0x54#8, 0x5C#8] ++
  -- 112 to 127
  [0x73#8, 0x67#8, 0x50#8, 0x6D#8, 0x78#8, 0x1C#8, 0x1C#8, 0x2A#8,
   0x76#8, 0x6E#8, 0x47#8, 0x46#8, 0x06#8, 0x70#8, 0x01#8, 0x00#8]

/-- PRESUMED, log 9: the reference defaults of the open parameters (92_eei_decisions.md D14, D15). The spec marks them as
general knowledge: only tests against spec/95_test_vectors.md use them, and `State.reset` does not. -/
def Config.reference (w : Width) : Config where
  width := w
  cmdSetData := 0x40#8
  cmdSetAddr := 0xC0#8
  cmdDisplay := 0x80#8
  digitTable := Config.referenceDigits
  asciiTable := Config.referenceAscii
  degreeCode := 0x63#8
  ackDrivePolicy := .onNack

end Sys2Proof
end

