-- ==== Sys2Proof/Syntax.lean ====
section
/-! DEFINITION. The commands of the block (spec/opcode_table.json, 30_encoding.md R78), the assembler lines of R82 and the
pseudo-commands of R83. What they stand for is in Decode.lean. -/

namespace Sys2Proof

/-- One constructor per row of the opcode table. An operand is a bit vector of its field's width (30_encoding.md R71 to
R77), so every term is a legal encoding; whether a position lies in the buffer is checked at execution (R81). A one-bit
operand is a `Bool`, `true` for 1. -/
inductive Instr where
  /-- ENCD v: encode a digit (41_encoder.md R102). -/
  | encd (v : Byte)
  /-- ENCA v: encode an ASCII character (41_encoder.md R106). -/
  | enca (v : Byte)
  /-- WSCR pos, code: write one scratch entry (43_buffer.md R158). -/
  | wscr (pos : BitVec 3) (code : Byte)
  /-- WSEG pos, code: write one live entry and flush (R160). -/
  | wseg (pos : BitVec 3) (code : Byte)
  /-- COMMIT len, pos: copy scratch into live and flush (R162). -/
  | commit (len pos : BitVec 3)
  /-- CLR: clear and flush (R164). -/
  | clr
  /-- RDBUF: read the live buffer (R166). -/
  | rdbuf
  /-- SFLIP b: set the orientation (R168). -/
  | sflip (b : Bool)
  /-- GFLIP: read the orientation (R170). -/
  | gflip
  /-- SBRT level, on: set the brightness (R171). -/
  | sbrt (level : Byte) (on : Bool)
  /-- INIT clr: initialize (R172). -/
  | init (clr : Bool)
  /-- BSTART: send a start condition (42_framer.md R130). -/
  | bstart
  /-- BSTOP: send a stop condition (R131). -/
  | bstop
  /-- BWRITE b: send one byte and return its acknowledgement (R132). -/
  | bwrite (b : Byte)
  deriving DecidableEq, Repr

/-- The mnemonics of the opcode table (30_encoding.md R78). -/
inductive Mnemonic where
  | encd | enca | wscr | wseg | commit | clr | rdbuf | sflip | gflip | sbrt | init | bstart | bstop | bwrite
  deriving DecidableEq, Repr

/-- The mnemonic of a command. -/
def Instr.mnemonic : Instr → Mnemonic
  | .encd _ => .encd
  | .enca _ => .enca
  | .wscr _ _ => .wscr
  | .wseg _ _ => .wseg
  | .commit _ _ => .commit
  | .clr => .clr
  | .rdbuf => .rdbuf
  | .sflip _ => .sflip
  | .gflip => .gflip
  | .sbrt _ _ => .sbrt
  | .init _ => .init
  | .bstart => .bstart
  | .bstop => .bstop
  | .bwrite _ => .bwrite

/-- An assembler line: a mnemonic and its operands as numbers, in the order of 30_encoding.md R82. Its checks stand in
WellFormed.lean. -/
structure AsmLine where
  mnemonic : Mnemonic
  operands : List Nat
  deriving DecidableEq, Repr

/-- The pseudo-commands of 30_encoding.md R83. -/
inductive Pseudo where
  /-- FLUSH -/
  | flush
  /-- SETSEGS pos, c0, …, c(m-1) -/
  | setSegs (pos : BitVec 3) (codes : List Byte)
  /-- SHOW c0, …, c(N-1) -/
  | showCodes (codes : List Byte)
  /-- BRIGHT level -/
  | bright (level : Byte)
  /-- INITC -/
  | initc
  /-- RAWFRAME b0, …, b(m-1) -/
  | rawFrame (bytes : List Byte)
  deriving DecidableEq, Repr

end Sys2Proof
end

