-- ==== Sys2Proof/WellFormed.lean ====
section
/-! DEFINITION. Which assembler lines and pseudo-commands are well formed. A term of `Instr` needs no check: each operand's
type is exactly its field. -/

namespace Sys2Proof

/-- The largest value of each operand of a mnemonic, in order: 255 for v, code, level and b, 7 for pos and len, 1 for a
flag (30_encoding.md R82). -/
def operandLimits : Mnemonic → List Nat
  | .encd => [255]
  | .enca => [255]
  | .wscr => [7, 255]
  | .wseg => [7, 255]
  | .commit => [7, 7]
  | .clr => []
  | .rdbuf => []
  | .sflip => [1]
  | .gflip => []
  | .sbrt => [255, 1]
  | .init => [1]
  | .bstart => []
  | .bstop => []
  | .bwrite => [255]

/-- As many operands as the mnemonic takes. -/
def AsmLine.rightCount (l : AsmLine) : Bool := l.operands.length == (operandLimits l.mnemonic).length

/-- Every operand fits its field. -/
def AsmLine.operandsFit (l : AsmLine) : Bool :=
  (l.operands.zip (operandLimits l.mnemonic)).all fun p => p.1 ≤ p.2

/-- A well-formed assembler line (30_encoding.md R82). It does not check a position against `N`. -/
def AsmLine.wf (l : AsmLine) : Bool := l.rightCount && l.operandsFit

/-- A well-formed pseudo-command on a block of width `n`: SETSEGS takes at most `n` codes and SHOW exactly `n`
(30_encoding.md R83). -/
def Pseudo.wf (n : Nat) : Pseudo → Bool
  | .flush => true
  | .setSegs _ codes => codes.length ≤ n
  | .showCodes codes => codes.length == n
  | .bright _ => true
  | .initc => true
  | .rawFrame _ => true

end Sys2Proof
end

