-- ==== Sys2Proof/Decode.lean ====
section
/-! DEFINITION. The command word decoder (30_encoding.md R70 to R81), total on 16-bit words and rejecting by name, and the
encoder written from the field diagrams of R71 to R76; then what an assembler line and a pseudo-command stand for. -/

namespace Sys2Proof

/-- One row of the match and mask table (30_encoding.md R79). -/
structure Row where
  mnemonic : Mnemonic
  pat      : Word
  mask     : Word
  deriving DecidableEq, Repr

/-- The table of 30_encoding.md R79. -/
def opcodeTable : List Row :=
  [⟨.encd,   0x1000#16, 0xFF00#16⟩,
   ⟨.enca,   0x2000#16, 0xFF00#16⟩,
   ⟨.wscr,   0x3000#16, 0xF800#16⟩,
   ⟨.wseg,   0x4000#16, 0xF800#16⟩,
   ⟨.commit, 0x5000#16, 0xFF88#16⟩,
   ⟨.clr,    0x6000#16, 0xFFFF#16⟩,
   ⟨.rdbuf,  0x7000#16, 0xFFFF#16⟩,
   ⟨.sflip,  0x8000#16, 0xFFFE#16⟩,
   ⟨.gflip,  0x9000#16, 0xFFFF#16⟩,
   ⟨.sbrt,   0xA000#16, 0xFE00#16⟩,
   ⟨.init,   0xB000#16, 0xFFFE#16⟩,
   ⟨.bstart, 0xC000#16, 0xFFFF#16⟩,
   ⟨.bstop,  0xD000#16, 0xFFFF#16⟩,
   ⟨.bwrite, 0xE000#16, 0xFF00#16⟩]

/-- "A word w decodes as a row iff `(w & mask) == match`" (30_encoding.md R79). -/
def Row.hits (r : Row) (w : Word) : Bool := w &&& r.mask == r.pat

/-- The opcode, w[15:12] (30_encoding.md R70). -/
def opField (w : Word) : BitVec 4 := w.extractLsb' 12 4

/-- w[7:0]: v of format B, code of format P, level of format S (30_encoding.md R71, R72, R76). -/
def byteField (w : Word) : Byte := w.extractLsb' 0 8

/-- w[10:8]: pos of format P (30_encoding.md R72). -/
def posFieldP (w : Word) : BitVec 3 := w.extractLsb' 8 3

/-- w[6:4]: len of format R (30_encoding.md R73). -/
def lenField (w : Word) : BitVec 3 := w.extractLsb' 4 3

/-- w[2:0]: pos of format R (30_encoding.md R73). -/
def posFieldR (w : Word) : BitVec 3 := w.extractLsb' 0 3

/-- w[0]: b of format F (30_encoding.md R75). -/
def flagField (w : Word) : Bool := w.getLsbD 0

/-- w[8]: on of format S (30_encoding.md R76). -/
def onField (w : Word) : Bool := w.getLsbD 8

/-- The command a word of a given row spells: its operands read from the row's format (30_encoding.md R71 to R78). -/
def instrOf (w : Word) : Mnemonic → Instr
  | .encd => .encd (byteField w)
  | .enca => .enca (byteField w)
  | .wscr => .wscr (posFieldP w) (byteField w)
  | .wseg => .wseg (posFieldP w) (byteField w)
  | .commit => .commit (lenField w) (posFieldR w)
  | .clr => .clr
  | .rdbuf => .rdbuf
  | .sflip => .sflip (flagField w)
  | .gflip => .gflip
  | .sbrt => .sbrt (byteField w) (onField w)
  | .init => .init (flagField w)
  | .bstart => .bstart
  | .bstop => .bstop
  | .bwrite => .bwrite (byteField w)

/-- What the decoder answers: a command, or why the word is no command (30_encoding.md R80). -/
inductive Decoded where
  /-- The command the word spells. -/
  | instr (i : Instr)
  /-- op 0x0 or op 0xF. -/
  | reservedOpcode
  /-- An opcode of the map whose reserved bits are not all zero. -/
  | reservedBits
  deriving DecidableEq, Repr

/-- The decoder (30_encoding.md R79, R80). -/
def decode (w : Word) : Decoded :=
  match opcodeTable.find? (·.hits w) with
  | some r => .instr (instrOf w r.mnemonic)
  | none => if opField w = 0x0#4 ∨ opField w = 0xF#4 then .reservedOpcode else .reservedBits

/-- The word of a command, field by field from bit 15 down (30_encoding.md R71 to R76, R78). -/
def encode : Instr → Word
  | .encd v => 0x1#4 ++ 0#4 ++ v
  | .enca v => 0x2#4 ++ 0#4 ++ v
  | .wscr pos code => 0x3#4 ++ 0#1 ++ pos ++ code
  | .wseg pos code => 0x4#4 ++ 0#1 ++ pos ++ code
  | .commit len pos => 0x5#4 ++ 0#5 ++ len ++ 0#1 ++ pos
  | .clr => 0x6#4 ++ 0#12
  | .rdbuf => 0x7#4 ++ 0#12
  | .sflip b => 0x8#4 ++ 0#11 ++ BitVec.ofBool b
  | .gflip => 0x9#4 ++ 0#12
  | .sbrt level on => 0xA#4 ++ 0#3 ++ BitVec.ofBool on ++ level
  | .init clr => 0xB#4 ++ 0#11 ++ BitVec.ofBool clr
  | .bstart => 0xC#4 ++ 0#12
  | .bstop => 0xD#4 ++ 0#12
  | .bwrite b => 0xE#4 ++ 0#4 ++ b

/-- The command word whose low `nbits` bits are those of `w`, every bit above them 0. The block has no byte order: a word
is handed over whole (20_memory.md R54; log 17). -/
def tableWord (nbits w : Nat) : Word := BitVec.ofNat 16 (w % 2 ^ nbits)

/-- The command the decoder reads from a word numbered as spec/opcode_table.json numbers it. -/
def decodeTableWord (nbits w : Nat) : Option Instr :=
  match decode (tableWord nbits w) with
  | .instr i => some i
  | .reservedOpcode => none
  | .reservedBits => none

/-! Assembler lines and pseudo-commands (30_encoding.md R82, R83). -/

/-- The command a line with the right number of operands spells (30_encoding.md R82); `none` for any other number. -/
def AsmLine.instr? : AsmLine → Option Instr
  | ⟨.encd, [v]⟩ => some (.encd (BitVec.ofNat 8 v))
  | ⟨.enca, [v]⟩ => some (.enca (BitVec.ofNat 8 v))
  | ⟨.wscr, [pos, code]⟩ => some (.wscr (BitVec.ofNat 3 pos) (BitVec.ofNat 8 code))
  | ⟨.wseg, [pos, code]⟩ => some (.wseg (BitVec.ofNat 3 pos) (BitVec.ofNat 8 code))
  | ⟨.commit, [len, pos]⟩ => some (.commit (BitVec.ofNat 3 len) (BitVec.ofNat 3 pos))
  | ⟨.clr, []⟩ => some .clr
  | ⟨.rdbuf, []⟩ => some .rdbuf
  | ⟨.sflip, [b]⟩ => some (.sflip (b == 1))
  | ⟨.gflip, []⟩ => some .gflip
  | ⟨.sbrt, [level, on]⟩ => some (.sbrt (BitVec.ofNat 8 level) (on == 1))
  | ⟨.init, [clr]⟩ => some (.init (clr == 1))
  | ⟨.bstart, []⟩ => some .bstart
  | ⟨.bstop, []⟩ => some .bstop
  | ⟨.bwrite, [b]⟩ => some (.bwrite (BitVec.ofNat 8 b))
  | _ => none

/-- The assembler: "An assembler rejects an operand that does not fit its field" (30_encoding.md R82). -/
def assemble (l : AsmLine) : Option Instr := if l.wf then l.instr? else none

/-- `WSCR k, c0` … for the codes in order, the first at scratch index `k`. -/
def scratchWrites (k : Nat) : List Byte → List Instr
  | [] => []
  | c :: cs => .wscr (BitVec.ofNat 3 k) c :: scratchWrites (k + 1) cs

/-- The expansion of a pseudo-command (30_encoding.md R83). -/
def Pseudo.expand : Pseudo → List Instr
  | .flush => [.commit 0#3 0#3]
  | .setSegs pos codes => scratchWrites 0 codes ++ [.commit (BitVec.ofNat 3 codes.length) pos]
  | .showCodes codes => scratchWrites 0 codes ++ [.commit (BitVec.ofNat 3 codes.length) 0#3]
  | .bright level => [.sbrt level true]
  | .initc => [.init true]
  | .rawFrame bytes => .bstart :: bytes.map .bwrite ++ [.bstop]

end Sys2Proof
end

