-- ==== Sys2Proof/Machine/State.lean ====
section
/-! DEFINITION. The state of the block (10_state.md), its faults, and construction, which is its reset
(70_reset_and_hazards.md R210). -/

namespace Sys2Proof.Machine

/-- One event of the pin trace (00_scope.md R12). -/
inductive Event where
  /-- CLK_LO: CLK to the low-driving output state. -/
  | clkLo
  /-- CLK_REL: CLK to the high-impedance state. -/
  | clkRel
  /-- DIO_LO: DIO to the low-driving output state. -/
  | dioLo
  /-- DIO_REL: DIO to the high-impedance state. -/
  | dioRel
  /-- WAIT: one bit-delay. -/
  | wait
  /-- SAMPLE(a): the block reads DIO and gets the level `a`. -/
  | sample (a : Level)
  deriving DecidableEq, Repr

/-- What `Respond` gives the host (30_encoding.md R88). -/
inductive Response where
  /-- One segment code: ENCD, ENCA. -/
  | code (c : Byte)
  /-- One bit, `true` for 1: GFLIP (1 = flipped), BWRITE (1 = acknowledged). -/
  | bit (b : Bool)
  /-- The N codes of RDBUF in index order. -/
  | codes (cs : List Byte)
  deriving DecidableEq, Repr

/-- The reasons of 60_exceptions.md. `step` answers one only in a stopped state: the command that faults takes a next
state in which STOPPED records the reason (R190; log 2). Safe: the spec says a stopped block takes no further command. -/
inductive Fault where
  /-- RANGE: STOPPED was set by a WSCR, WSEG or COMMIT outside the buffer (R191). Raised by `step`; safe. -/
  | range
  /-- ILLEGAL_COMMAND: STOPPED was set by a word that spells no command (R192). Raised by `step`; safe. -/
  | illegalCommand
  deriving DecidableEq, Repr

/-- Why the model has no meaning for a command. Every command has one, so no step answers this. -/
inductive Refusal where
  /-- A command without a meaning in `exec`, by its mnemonic. Raised by `exec` alone; safe. -/
  | notModelled (mnemonic : String)
  deriving DecidableEq, Repr

/-- The record of a fault: the reason and the faulting command word (60_exceptions.md R191, R192, R195). -/
structure Stop where
  reason : Fault
  word   : Word
  deriving DecidableEq, Repr

/-- The state of one block instance. The last four fields are the model's own. -/
structure State where
  /-- The parameters fixed for the life of the instance (00_scope.md R6, R9). -/
  cfg      : Config
  /-- BIT_DELAY, in microseconds; no rule reads it (10_state.md R28). -/
  bitDelay : Nat
  /-- LIVE[0..N-1] (10_state.md R21 to R23). -/
  live     : List Byte
  /-- SCR[0..N-1] (10_state.md R24). -/
  scr      : List Byte
  /-- FLIP, `true` for 1 (10_state.md R25). -/
  flip     : Bool
  /-- BRIGHT: LEVEL is bits 2:0 and ON is bit 3 (10_state.md R26). -/
  bright   : BitVec 4
  /-- ACK_LAST, `true` for 1 (10_state.md R29). -/
  ackLast  : Bool
  /-- CLK_DRV, `true` for driven low (10_state.md R31). -/
  clkDrv   : Bool
  /-- DIO_DRV, `true` for driven low (10_state.md R31). -/
  dioDrv   : Bool
  /-- TR, the oldest event first (10_state.md R33). -/
  tr       : List Event
  /-- STOPPED, with the faulting word (10_state.md R34, 60_exceptions.md R195). -/
  stopped  : Option Stop
  /-- The responses given so far, the oldest first (00_scope.md R14, 10_state.md R33; log 8). -/
  resps    : List Response
  /-- The command words the host has issued and the block has not taken, the next one first (20_memory.md R62, R66;
  log 1). -/
  cmds     : List Word
  /-- The settled answers of the peripheral to the samples to come, the next one first (00_scope.md R13; log 6). -/
  dioIn    : List Level
  /-- How many free draws of `Config.freeSample` have been used (log 6). -/
  draws    : Nat
  deriving DecidableEq, Repr

/-- `N` (00_scope.md R6). -/
abbrev State.width (s : State) : Nat := s.cfg.width.count

/-- LEVEL = BRIGHT[2:0] (10_state.md R26). -/
def State.level (s : State) : BitVec 3 := s.bright.extractLsb' 0 3

/-- ON = BRIGHT[3] (10_state.md R26). -/
def State.on (s : State) : Bool := s.bright.getLsbD 3

/-- The outcome of a command. -/
abbrev Result := Host.Outcome State Fault Refusal

/-- The arguments of the source's construct, with the source's defaults (70_reset_and_hazards.md R210). The pins select
which pins CLK and DIO are and no rule reads them (10_state.md R37); the scroll delay is accepted and ignored (R210; log
15). -/
structure ConstructArgs where
  clockPin       : Nat
  dataPin        : Nat
  bitDelayMicros : Nat := 100
  scrollDelayMs  : Nat := 100
  flip           : Bool := false
  deriving DecidableEq, Repr

/-- Construction, the block's reset (70_reset_and_hazards.md R210, 10_state.md R38). `c` and `bright` are the parameters
of 00_scope.md R9; `live`, `scr` and `ack` are the reset draws. It depends on no earlier state: it is also the only way
out of a stopped state (R212). -/
def State.construct (c : Config) (bright : BitVec 4) (live scr : Nat → Byte) (ack : Bool) (a : ConstructArgs) :
    State where
  cfg := c
  bitDelay := a.bitDelayMicros
  live := (List.range c.width.count).map live
  scr := (List.range c.width.count).map scr
  flip := a.flip
  bright := bright
  ackLast := ack
  clkDrv := false
  dioDrv := false
  tr := []
  stopped := none
  resps := []
  cmds := []
  dioIn := []
  draws := 0

/-- The block right after construction with the source's default arguments. DESIGN CHOICE, log 4 (unsafe): the 4-digit
variant. Every value the spec leaves open is an opaque constant (log 3, 5: safe). -/
def State.reset : State :=
  State.construct (Config.openParams .four) Config.openBrightReset Config.liveDraw Config.scrDraw Config.ackLastDraw
    { clockPin := 0, dataPin := 0 }

end Sys2Proof.Machine
end

