-- ==== Sys2Proof/Machine/Flags.lean ====
section
/-! DEFINITION. The block's one flag, ACK_LAST, and the condition that reads the same sample (42_framer.md R128). The block
has no other flag and no condition code (10_state.md R30). -/

namespace Sys2Proof.Machine

/-- The value of ACK_LAST for a sampled level: "a low level is acknowledged" (10_state.md R29, 42_framer.md R128). -/
def acked : Level → Bool
  | .low => true
  | .high => false

/-- Whether DIO is driven low after a sample: on a NACK under ON_NACK, on an ACK under ON_ACK (42_framer.md R128). -/
def drivesAfter : AckDrivePolicy → Level → Bool
  | .onNack, a => a == .high
  | .onAck, a => a == .low

end Sys2Proof.Machine
end

