-- ==== Sys2Proof/Machine/Operands.lean ====
section
/-! DEFINITION. The operand forms: positions and lengths against N, and the brightness operands. -/

namespace Sys2Proof.Machine

/-- A position in the buffer of a block of width `n`: 0 to n − 1 (20_memory.md R50, 30_encoding.md R72). -/
def posOk (n : Nat) (pos : BitVec 3) : Bool := pos.toNat < n

/-- COMMIT's pair in range iff `pos < N` and `pos + len ≤ N` (30_encoding.md R73). -/
def rangeOk (n : Nat) (len pos : BitVec 3) : Bool := pos.toNat < n && pos.toNat + len.toNat ≤ n

/-- The packed brightness nibble `(level & 0x7) | (on ? 0x8 : 0)` (10_state.md R27). -/
def packBright (level : Byte) (on : Bool) : BitVec 4 :=
  (level &&& 0x07#8).setWidth 4 ||| (if on then 0x8#4 else 0x0#4)

/-- The DISPLAY byte: the brightness nibble OR'd into CMD_DISPLAY (30_encoding.md R85, R86). -/
def displayByte (cmdDisplay : Byte) (bright : BitVec 4) : Byte := cmdDisplay ||| bright.setWidth 8

end Sys2Proof.Machine
end

