-- ==== Sys2Proof/Machine/Ops.lean ====
section
/-! DEFINITION. The shared operations: the buffers, responses, pin events and samples, the fault, and taking the host's
next command. -/

namespace Sys2Proof.Machine

/-! The buffers. An index of N or more is never used by a command; in a state whose buffers are not of length N (which
no run reaches, log 13) a read outside gives 0 and a write outside changes nothing. -/

/-- LIVE[k]. -/
def readLive (s : State) (k : Nat) : Byte := s.live.getD k 0#8

/-- SCR[k]. -/
def readScr (s : State) (k : Nat) : Byte := s.scr.getD k 0#8

/-- `LIVE[k] <- v`: the whole 8-bit code, with no masking (20_memory.md R56, 43_buffer.md R161). -/
def writeLive (k : Nat) (v : Byte) (s : State) : State := { s with live := s.live.set k v }

/-- `SCR[k] <- v` (20_memory.md R56). -/
def writeScr (k : Nat) (v : Byte) (s : State) : State := { s with scr := s.scr.set k v }

/-- `LIVE[pos + j] <- SCR[j]` for j in 0..len−1 (43_buffer.md R162). -/
def copyScratch (len pos : Nat) (s : State) : State :=
  (List.range len).foldl (fun t j => writeLive (pos + j) (readScr t j) t) s

/-- `LIVE[k] <- 0x00` for k in 0..N−1 (43_buffer.md R164). -/
def clearLive (s : State) : State := (List.range s.width).foldl (fun t k => writeLive k 0x00#8 t) s

/-- `FLIP <- b` (43_buffer.md R168). -/
def setFlip (b : Bool) (s : State) : State := { s with flip := b }

/-- Both fields of BRIGHT at once (43_buffer.md R171). -/
def setBright (v : BitVec 4) (s : State) : State := { s with bright := v }

/-- `Respond(v)` (00_scope.md R14). -/
def respond (r : Response) (s : State) : State := { s with resps := s.resps ++ [r] }

/-! Pin events. -/

/-- CLK_DRV after an event (10_state.md R31). -/
def clkAfter : Event → Bool → Bool
  | .clkLo, _ => true
  | .clkRel, _ => false
  | .dioLo, d => d
  | .dioRel, d => d
  | .wait, d => d
  | .sample _, d => d

/-- DIO_DRV after an event (10_state.md R31). -/
def dioAfter : Event → Bool → Bool
  | .clkLo, d => d
  | .clkRel, d => d
  | .dioLo, _ => true
  | .dioRel, _ => false
  | .wait, d => d
  | .sample _, d => d

/-- `Emit(e)`: the drive bits, and one event at the end of TR (00_scope.md R12, 10_state.md R31, R33). -/
def emit (e : Event) (s : State) : State :=
  { s with clkDrv := clkAfter e s.clkDrv, dioDrv := dioAfter e s.dioDrv, tr := s.tr ++ [e] }

/-- Several events in order. -/
def emitAll (es : List Event) (s : State) : State := es.foldl (fun t e => emit e t) s

/-- The level the next `Sample()` gets: the next settled answer, or a free draw (00_scope.md R13; log 6). -/
def nextLevel (s : State) : Level :=
  match s.dioIn with
  | a :: _ => a
  | [] => Config.freeSample s.draws

/-- The answer just used is used up. -/
def useAnswer (s : State) : State :=
  match s.dioIn with
  | _ :: rest => { s with dioIn := rest }
  | [] => { s with draws := s.draws + 1 }

/-- `ACK_LAST <- b` (42_framer.md R128). -/
def setAck (b : Bool) (s : State) : State := { s with ackLast := b }

/-! Faults. -/

/-- `raise Fault(reason)`: STOPPED records the reason and the word, and nothing else changes (60_exceptions.md R190, R191,
R192, R195). The block has no return from a fault (R196): only a new construction, `State.construct`, clears STOPPED. -/
def raiseFault (reason : Fault) (word : Word) (s : State) : State := { s with stopped := some ⟨reason, word⟩ }

/-! The host's command stream. -/

/-- What the block finds when it is ready for a command. -/
inductive Fetched where
  /-- The block is stopped: it takes no further command (60_exceptions.md R190). -/
  | stopped (reason : Fault)
  /-- No command is pending: the block waits (70_reset_and_hazards.md R211). -/
  | idle
  /-- A command word, and the state once it is taken. -/
  | command (w : Word) (s : State)
  deriving DecidableEq, Repr

/-- Take the host's next command (20_memory.md R62). -/
def fetch (s : State) : Fetched :=
  match s.stopped with
  | some st => .stopped st.reason
  | none =>
    match s.cmds with
    | w :: rest => .command w { s with cmds := rest }
    | [] => .idle

/-- A word that spells no command raises ILLEGAL_COMMAND; its operands are not examined (60_exceptions.md R192, R194). -/
def illegalCommand (w : Word) (s : State) : State := raiseFault .illegalCommand w s

end Sys2Proof.Machine
end

