-- ==== Sys2Proof/Machine/Wire.lean ====
section
/-! DEFINITION. The framer's primitives, the orientation mux and the flush (42_framer.md R122 to R128, 43_buffer.md R150 to
R153). -/

namespace Sys2Proof.Machine

/-! The framer. -/

/-- `Start()` (42_framer.md R122). -/
def startCond (s : State) : State := emitAll [.dioLo, .wait] s

/-- `Stop()` (42_framer.md R124). -/
def stopCond (s : State) : State := emitAll [.dioLo, .wait, .clkRel, .wait, .dioRel, .wait] s

/-- One bit slot: DIO released for 1 and driven low for 0, its event emitted even when the bit repeats (42_framer.md R126,
R127). -/
def sendBit (bit : Bool) (s : State) : State :=
  emitAll [.clkLo, if bit then .dioRel else .dioLo, .wait, .clkRel, .wait] s

/-- The eight bit slots, bit 0 first (42_framer.md R126, 20_memory.md R53). -/
def sendBits (b : Byte) (s : State) : State :=
  (List.range 8).foldl (fun t i => sendBit (b.getLsbD i) t) s

/-- `a <- Sample()`, which emits SAMPLE(a), and ACK_LAST from it (00_scope.md R13, 42_framer.md R128). -/
def sampleAck (s : State) : State :=
  setAck (acked (nextLevel s)) (emit (.sample (nextLevel s)) (useAnswer s))

/-- `AckPhase()` (42_framer.md R128). -/
def ackPhase (s : State) : State :=
  let t := emitAll [.clkLo, .dioRel, .wait, .clkRel, .wait] s
  let a := nextLevel t
  let u := sampleAck t
  let v := if drivesAfter u.cfg.ackDrivePolicy a then emit .dioLo u else u
  emitAll [.wait, .clkLo, .wait] v

/-- `WriteByte(b)` (42_framer.md R126). What it returns is the ACK_LAST it leaves. -/
def writeByte (b : Byte) (s : State) : State := ackPhase (sendBits b s)

/-- The bytes of a frame, one WriteByte each; a NACK stops nothing (42_framer.md R129). -/
def writeBytes (bs : List Byte) (s : State) : State := bs.foldl (fun t b => writeByte b t) s

/-- One frame: `Start()`, the bytes, `Stop()` (30_encoding.md R84). -/
def sendFrame (bs : List Byte) (s : State) : State := stopCond (writeBytes bs (startCond s))

/-! The orientation mux. -/

/-- `flipSeg(x)`: segments A–C and D–F change places, G stays, the dot is not carried (43_buffer.md R150). -/
def flipSeg (x : Byte) : Byte := ((x &&& 0x07#8) <<< 3) ||| ((x &&& 0x38#8) >>> 3) ||| (x &&& 0x40#8)

/-- `flipOut(k)`: the segments of LIVE[N−1−k] rotated, with the dot of LIVE[N−k−2] where that index is in the buffer
(43_buffer.md R151, 90_conflicts.md C1). -/
def flipOut (s : State) (k : Nat) : Byte :=
  flipSeg (readLive s (s.width - 1 - k))
    ||| (if k + 2 ≤ s.width then readLive s (s.width - k - 2) &&& 0x80#8 else 0x00#8)

/-- data[k] of the flush (43_buffer.md R153, R154). -/
def wireByte (s : State) (k : Nat) : Byte := if s.flip then flipOut s k else readLive s k

/-- data[0..N-1] of the flush. -/
def wireData (s : State) : List Byte := (List.range s.width).map (wireByte s)

/-! The flush. -/

/-- `Flush()`: data and nibble first, then the three frames (43_buffer.md R153, 30_encoding.md R85). -/
def flush (s : State) : State :=
  let data := wireData s
  let nib := s.bright
  let s1 := sendFrame [s.cfg.cmdSetData] s
  let s2 := sendFrame ((s.cfg.cmdSetAddr ||| 0x00#8) :: data) s1
  sendFrame [displayByte s.cfg.cmdDisplay nib] s2

end Sys2Proof.Machine
end

