-- ==== Sys2Proof/Machine/Buffer.lean ====
section
/-! DEFINITION. The buffer's commands WSCR, WSEG, COMMIT, CLR, RDBUF, SFLIP, GFLIP, SBRT and INIT (43_buffer.md R158 to
R172). -/

namespace Sys2Proof.Machine

/-- WSCR: one scratch entry, or RANGE; it never flushes (43_buffer.md R158). -/
def execWscr (pos : BitVec 3) (code : Byte) (s : State) : Result :=
  if posOk s.width pos then .next (writeScr pos.toNat code s)
  else .next (raiseFault .range (encode (.wscr pos code)) s)

/-- WSEG: one live entry and a flush, or RANGE (43_buffer.md R160). -/
def execWseg (pos : BitVec 3) (code : Byte) (s : State) : Result :=
  if posOk s.width pos then .next (flush (writeLive pos.toNat code s))
  else .next (raiseFault .range (encode (.wseg pos code)) s)

/-- COMMIT: scratch into live and a flush, or RANGE; with len = 0 only the flush (43_buffer.md R162). -/
def execCommit (len pos : BitVec 3) (s : State) : Result :=
  if rangeOk s.width len pos then .next (flush (copyScratch len.toNat pos.toNat s))
  else .next (raiseFault .range (encode (.commit len pos)) s)

/-- CLR (43_buffer.md R164). -/
def execClr (s : State) : Result := .next (flush (clearLive s))

/-- RDBUF: the canonical codes, whatever FLIP is (43_buffer.md R166). -/
def execRdbuf (s : State) : Result := .next (respond (.codes ((List.range s.width).map (readLive s))) s)

/-- SFLIP: no event; the new value acts at the next flush (43_buffer.md R168). -/
def execSflip (b : Bool) (s : State) : Result := .next (setFlip b s)

/-- GFLIP (43_buffer.md R170). -/
def execGflip (s : State) : Result := .next (respond (.bit s.flip) s)

/-- SBRT: LEVEL masked to 3 bits, and ON; no event (43_buffer.md R171). -/
def execSbrt (level : Byte) (on : Bool) (s : State) : Result := .next (setBright (packBright level on) s)

/-- INIT: both lines released; with clr = 1 also an all-zero buffer and a flush (43_buffer.md R172). -/
def execInit (clr : Bool) (s : State) : Result :=
  let t := emitAll [.clkRel, .dioRel] s
  .next (if clr then flush (clearLive t) else t)

end Sys2Proof.Machine
end

