-- ==== Sys2Proof/Machine/Encoder.lean ====
section
/-! DEFINITION. The segment encoder and its commands ENCD and ENCA (41_encoder.md). -/

namespace Sys2Proof.Machine

/-- `encDigit(v)`: DIGIT_TABLE[v mod 16] (41_encoder.md R100). -/
def encDigit (c : Config) (v : Byte) : Byte := c.digitTable.getD (v.toNat % 16) 0#8

/-- `encAscii(v)`, with the tests in the order of 41_encoder.md R104. -/
def encAscii (c : Config) (v : Byte) : Byte :=
  if v.toNat = 176 then c.degreeCode
  else if v.toNat < 32 ∨ v.toNat > 127 then 0x00#8
  else c.asciiTable.getD (v.toNat - 32) 0#8

/-- ENCD (41_encoder.md R102). -/
def execEncd (v : Byte) (s : State) : Result := .next (respond (.code (encDigit s.cfg v)) s)

/-- ENCA (41_encoder.md R106). -/
def execEnca (v : Byte) (s : State) : Result := .next (respond (.code (encAscii s.cfg v)) s)

end Sys2Proof.Machine
end

