-- ==== Sys2Proof/Machine/Framer.lean ====
section
/-! DEFINITION. The framer's host commands BSTART, BSTOP and BWRITE (42_framer.md R130 to R132). -/

namespace Sys2Proof.Machine

/-- BSTART (42_framer.md R130). Whether a frame is open is not checked (R123, R135). -/
def execBstart (s : State) : Result := .next (startCond s)

/-- BSTOP (42_framer.md R131). -/
def execBstop (s : State) : Result := .next (stopCond s)

/-- BWRITE: responds the acknowledgement, 1 = acknowledged (42_framer.md R132). -/
def execBwrite (b : Byte) (s : State) : Result :=
  let t := writeByte b s
  .next (respond (.bit t.ackLast) t)

end Sys2Proof.Machine
end

