-- ==== Sys2Proof/Machine/Dispatch.lean ====
section
/-! DEFINITION. The meaning of every command, one arm each. -/

namespace Sys2Proof.Machine

def exec (i : Instr) (s : State) : Host.Outcome State Fault Refusal :=
  match i with
  | .encd v => Sys2Proof.Machine.execEncd v s
  | .enca v => Sys2Proof.Machine.execEnca v s
  | .wscr pos code => Sys2Proof.Machine.execWscr pos code s
  | .wseg pos code => Sys2Proof.Machine.execWseg pos code s
  | .commit len pos => Sys2Proof.Machine.execCommit len pos s
  | .clr => Sys2Proof.Machine.execClr s
  | .rdbuf => Sys2Proof.Machine.execRdbuf s
  | .sflip b => Sys2Proof.Machine.execSflip b s
  | .gflip => Sys2Proof.Machine.execGflip s
  | .sbrt level on => Sys2Proof.Machine.execSbrt level on s
  | .init clr => Sys2Proof.Machine.execInit clr s
  | .bstart => Sys2Proof.Machine.execBstart s
  | .bstop => Sys2Proof.Machine.execBstop s
  | .bwrite b => Sys2Proof.Machine.execBwrite b s

end Sys2Proof.Machine
end

