-- ==== Sys2Proof/Machine/Step.lean ====
section
/-! DEFINITION. One step: take the host's next command, decode it, execute it (10_state.md R35, 60_exceptions.md R194). -/

namespace Sys2Proof.Machine

/-- One step. A stopped block answers its fault; a block with no pending command waits, unchanged; a word that spells no
command raises ILLEGAL_COMMAND; any other word runs as the command it spells (log 1, 2). -/
def step (s : State) : Host.Outcome State Fault Refusal :=
  match fetch s with
  | .stopped reason => .fault reason
  | .idle => .next s
  | .command w t =>
    match decode w with
    | .instr i => exec i t
    | .reservedOpcode => .next (illegalCommand w t)
    | .reservedBits => .next (illegalCommand w t)

/-- `s` with the command word of `w` issued as the host's very next command (log 1, 17). The commands already pending
stay behind it. -/
def State.withFetchWord (s : State) (nbits w : Nat) : State := { s with cmds := tableWord nbits w :: s.cmds }

end Sys2Proof.Machine
end

