-- ==== Sys2Proof/Safety.lean ====
section
/-! DEFINITION. The terms claims are made in: what counts as a running block, the invariants, the pin trace of a byte, a
frame and a flush written out in full, and runs of several commands. Nothing here is used by the machine. -/

namespace Sys2Proof.Machine

/-! Runs. -/

/-- The block is not stopped (10_state.md R34). A safe run is one whose states all are running. -/
abbrev Running (s : State) : Prop := s.stopped = none

/-- The next state of an outcome that has one. -/
def nextOf : Result → Option State
  | .next s => some s
  | .fault _ => none
  | .refused _ => none

/-- Commands in order, each from the state the one before it left, with no regard to STOPPED (the step function looks at
that). -/
def execAll : List Instr → State → Result
  | [], s => .next s
  | i :: is, s =>
    match exec i s with
    | .next t => execAll is t
    | .fault r => .fault r
    | .refused r => .refused r

/-! Invariants. -/

/-- Both buffers have exactly N entries (10_state.md R23, R24). -/
abbrev BuffersExact (s : State) : Prop := s.live.length = s.width ∧ s.scr.length = s.width

/-- Whether a pin is driven low after a trace that starts from released: its last event was `lo`. -/
def drivenBy (lo rel : Event) (es : List Event) : Bool :=
  es.foldl (fun d e => if e = lo then true else if e = rel then false else d) false

/-- CLK_DRV and DIO_DRV are what the pin trace says (10_state.md R31). -/
abbrev PinsFollowTrace (s : State) : Prop :=
  s.clkDrv = drivenBy .clkLo .clkRel s.tr ∧ s.dioDrv = drivenBy .dioLo .dioRel s.tr

/-- The last sample so far, one event later. -/
def sampleAfter (l : Option Level) : Event → Option Level
  | .sample a => some a
  | .clkLo => l
  | .clkRel => l
  | .dioLo => l
  | .dioRel => l
  | .wait => l

/-- The level of the last sample of a trace. -/
def lastSample (es : List Event) : Option Level := es.foldl sampleAfter none

/-- Once a byte has been written, ACK_LAST says whether its sample was low (10_state.md R29). -/
abbrev AckFollowsTrace (s : State) : Prop := ∀ a, lastSample s.tr = some a → s.ackLast = (a == .low)

/-- DIO is released at every sample of the trace (10_state.md R32, 42_framer.md R128). -/
def SamplesReleased (es : List Event) : Prop :=
  ∀ before a after, es = before ++ .sample a :: after → drivenBy .dioLo .dioRel before = false

/-! Samples to come. -/

/-- The level the `k`-th sample from `s` on will get, the next one being number 0. -/
def State.answer (s : State) (k : Nat) : Level :=
  match s.dioIn[k]? with
  | some a => a
  | none => Config.freeSample (s.draws + (k - s.dioIn.length))

/-! The pin trace in full. -/

/-- One bit slot (42_framer.md R126). -/
def slotEvents (bit : Bool) : List Event :=
  [.clkLo, if bit then .dioRel else .dioLo, .wait, .clkRel, .wait]

/-- The acknowledgement phase with the sampled level `a` (42_framer.md R128). -/
def ackEvents (p : AckDrivePolicy) (a : Level) : List Event :=
  [.clkLo, .dioRel, .wait, .clkRel, .wait, .sample a] ++
    (if (p = .onNack ∧ a = .high) ∨ (p = .onAck ∧ a = .low) then [.dioLo] else []) ++ [.wait, .clkLo, .wait]

/-- The whole of WriteByte(b) with the sampled level `a`: bits 0 to 7, then the acknowledgement (42_framer.md R126). -/
def byteEvents (p : AckDrivePolicy) (b : Byte) (a : Level) : List Event :=
  slotEvents (b.getLsbD 0) ++ slotEvents (b.getLsbD 1) ++ slotEvents (b.getLsbD 2) ++ slotEvents (b.getLsbD 3) ++
    slotEvents (b.getLsbD 4) ++ slotEvents (b.getLsbD 5) ++ slotEvents (b.getLsbD 6) ++ slotEvents (b.getLsbD 7) ++
    ackEvents p a

/-- Several bytes, the first one sampling answer number `k`. -/
def bytesEvents (p : AckDrivePolicy) (answer : Nat → Level) (k : Nat) : List Byte → List Event
  | [] => []
  | b :: bs => byteEvents p b (answer k) ++ bytesEvents p answer (k + 1) bs

/-- One frame: Start, its bytes, Stop (30_encoding.md R84, 42_framer.md R122, R124). -/
def frameEvents (p : AckDrivePolicy) (answer : Nat → Level) (k : Nat) (bs : List Byte) : List Event :=
  [.dioLo, .wait] ++ bytesEvents p answer k bs ++ [.dioLo, .wait, .clkRel, .wait, .dioRel, .wait]

/-- The three frames of a flush (30_encoding.md R85, 43_buffer.md R153). -/
def flushEvents (c : Config) (answer : Nat → Level) (data : List Byte) (bright : BitVec 4) : List Event :=
  frameEvents c.ackDrivePolicy answer 0 [c.cmdSetData] ++
    frameEvents c.ackDrivePolicy answer 1 ((c.cmdSetAddr ||| 0x00#8) :: data) ++
    frameEvents c.ackDrivePolicy answer (data.length + 2) [c.cmdDisplay ||| bright.setWidth 8]

/-- Everything a flush changes: TR, ACK_LAST from the last of its N + 3 samples, the pins released, the answers used up
(43_buffer.md R153, R155). -/
def flushed (s : State) : State :=
  { s with
    tr := s.tr ++ flushEvents s.cfg s.answer (wireData s) s.bright
    ackLast := s.answer (s.width + 2) == .low
    clkDrv := false
    dioDrv := false
    dioIn := s.dioIn.drop (s.width + 3)
    draws := s.draws + (s.width + 3 - s.dioIn.length) }

/-- A trace without its sampled levels and without the DIO drive that follows a sample (20_memory.md R60). -/
def stripAck : List Event → List Event
  | [] => []
  | .sample _ :: .dioLo :: es => stripAck es
  | .sample _ :: es => stripAck es
  | .clkLo :: es => .clkLo :: stripAck es
  | .clkRel :: es => .clkRel :: stripAck es
  | .dioLo :: es => .dioLo :: stripAck es
  | .dioRel :: es => .dioRel :: stripAck es
  | .wait :: es => .wait :: stripAck es

/-- What a command appended to the trace. -/
def newEvents (s t : State) : List Event := t.tr.drop s.tr.length

/-- How many samples of a trace are followed by a drive under a policy: NACKs under ON_NACK, ACKs under ON_ACK. -/
def drivesIn (p : AckDrivePolicy) (es : List Event) : Nat :=
  match p with
  | .onNack => es.count (.sample .high)
  | .onAck => es.count (.sample .low)

/-! A receiver on the two lines. -/

/-- What a receiver has seen: the two lines (`true` for driven low), the clocks and bits of the byte under way, the bytes
of the frame under way, and the frames. -/
structure Receiver where
  clk    : Bool := false
  dio    : Bool := false
  clocks : Nat := 0
  byte   : Byte := 0#8
  bytes  : List Byte := []
  frames : List (List Byte) := []
  deriving DecidableEq, Repr

/-- One event: DIO falling while CLK is high starts a frame; a rising CLK takes one bit, least-significant first, and
every ninth one ends a byte; DIO rising while CLK is high ends the frame (30_encoding.md R84, 42_framer.md R134). -/
def Receiver.see (r : Receiver) : Event → Receiver
  | .clkLo => { r with clk := true }
  | .clkRel =>
    if r.clocks = 8 then { r with clk := false, clocks := 0, bytes := r.bytes ++ [r.byte] }
    else { r with clk := false, clocks := r.clocks + 1, byte := (r.byte >>> 1) ||| (if r.dio then 0x00#8 else 0x80#8) }
  | .dioLo => if r.clk || r.dio then { r with dio := true } else { r with dio := true, clocks := 0, bytes := [] }
  | .dioRel =>
    if r.clk || !r.dio then { r with dio := false }
    else { r with dio := false, frames := r.frames ++ [r.bytes] }
  | .wait => r
  | .sample _ => r

/-- The frames a receiver that starts on released lines reads from a trace. -/
def framesSeen (es : List Event) : List (List Byte) := (es.foldl Receiver.see {}).frames

/-! Words that spell no command. -/

/-- A word that matches no row of 30_encoding.md R79, the rows written out. -/
abbrev MatchesNoRow (w : Word) : Prop :=
  w &&& 0xFF00#16 ≠ 0x1000#16 ∧ w &&& 0xFF00#16 ≠ 0x2000#16 ∧ w &&& 0xF800#16 ≠ 0x3000#16 ∧
  w &&& 0xF800#16 ≠ 0x4000#16 ∧ w &&& 0xFF88#16 ≠ 0x5000#16 ∧ w &&& 0xFFFF#16 ≠ 0x6000#16 ∧
  w &&& 0xFFFF#16 ≠ 0x7000#16 ∧ w &&& 0xFFFE#16 ≠ 0x8000#16 ∧ w &&& 0xFFFF#16 ≠ 0x9000#16 ∧
  w &&& 0xFE00#16 ≠ 0xA000#16 ∧ w &&& 0xFFFE#16 ≠ 0xB000#16 ∧ w &&& 0xFFFF#16 ≠ 0xC000#16 ∧
  w &&& 0xFFFF#16 ≠ 0xD000#16 ∧ w &&& 0xFF00#16 ≠ 0xE000#16

/-- A command whose position or length lies outside a buffer of width `n` (60_exceptions.md R191). -/
def OutOfRange (n : Nat) : Instr → Prop
  | .wscr pos _ => n ≤ pos.toNat
  | .wseg pos _ => n ≤ pos.toNat
  | .commit len pos => n ≤ pos.toNat ∨ n < pos.toNat + len.toNat
  | .encd _ => False
  | .enca _ => False
  | .clr => False
  | .rdbuf => False
  | .sflip _ => False
  | .gflip => False
  | .sbrt _ _ => False
  | .init _ => False
  | .bstart => False
  | .bstop => False
  | .bwrite _ => False

end Sys2Proof.Machine
end

