-- ==== Sys2Proof/Certificates/Slice0/Obligations.lean ====
section
/-! DEFINITION. The statements for the provers. Each docstring names the rule of spec/ the statement rests on. Trace words
(`byteEvents`, `frameEvents`, `flushEvents`, `flushed`, …) are written out in Safety.lean. -/

open Sys2Proof Sys2Proof.Machine

/-! ## Encoding -/

/-- Every command, at every operand value, decodes from its own word (30_encoding.md R71 to R78). -/
def Obligations.DecodeOfEncodeIsTheCommand : Prop :=
  ∀ i : Instr, decode (encode i) = .instr i

/-- A word that decodes is the word of the command it decodes to: no two words spell one command (R70 to R79). -/
def Obligations.EncodeOfDecodeIsTheWord : Prop :=
  ∀ (w : Word) (i : Instr), decode w = .instr i → encode i = w

/-- R79, row by row, with the operand fields of R71 to R76. -/
def Obligations.DecodesAsARowIffMatchAndMask : Prop :=
  ∀ w : Word,
    (∀ v, decode w = .instr (.encd v) ↔ w &&& 0xFF00#16 = 0x1000#16 ∧ v = w.extractLsb' 0 8) ∧
    (∀ v, decode w = .instr (.enca v) ↔ w &&& 0xFF00#16 = 0x2000#16 ∧ v = w.extractLsb' 0 8) ∧
    (∀ pos code, decode w = .instr (.wscr pos code) ↔
      w &&& 0xF800#16 = 0x3000#16 ∧ pos = w.extractLsb' 8 3 ∧ code = w.extractLsb' 0 8) ∧
    (∀ pos code, decode w = .instr (.wseg pos code) ↔
      w &&& 0xF800#16 = 0x4000#16 ∧ pos = w.extractLsb' 8 3 ∧ code = w.extractLsb' 0 8) ∧
    (∀ len pos, decode w = .instr (.commit len pos) ↔
      w &&& 0xFF88#16 = 0x5000#16 ∧ len = w.extractLsb' 4 3 ∧ pos = w.extractLsb' 0 3) ∧
    (decode w = .instr .clr ↔ w &&& 0xFFFF#16 = 0x6000#16) ∧
    (decode w = .instr .rdbuf ↔ w &&& 0xFFFF#16 = 0x7000#16) ∧
    (∀ b, decode w = .instr (.sflip b) ↔ w &&& 0xFFFE#16 = 0x8000#16 ∧ b = w.getLsbD 0) ∧
    (decode w = .instr .gflip ↔ w &&& 0xFFFF#16 = 0x9000#16) ∧
    (∀ level on, decode w = .instr (.sbrt level on) ↔
      w &&& 0xFE00#16 = 0xA000#16 ∧ level = w.extractLsb' 0 8 ∧ on = w.getLsbD 8) ∧
    (∀ clr, decode w = .instr (.init clr) ↔ w &&& 0xFFFE#16 = 0xB000#16 ∧ clr = w.getLsbD 0) ∧
    (decode w = .instr .bstart ↔ w &&& 0xFFFF#16 = 0xC000#16) ∧
    (decode w = .instr .bstop ↔ w &&& 0xFFFF#16 = 0xD000#16) ∧
    (∀ b, decode w = .instr (.bwrite b) ↔ w &&& 0xFF00#16 = 0xE000#16 ∧ b = w.extractLsb' 0 8)

/-- R82: the word of each assembler line, and the rejection of an operand that does not fit its field. -/
def Obligations.AssemblerSpellsTheWord : Prop :=
  (∀ v ≤ 255, (assemble ⟨.encd, [v]⟩).map encode = some (BitVec.ofNat 16 (0x1000 ||| v))) ∧
  (∀ v ≤ 255, (assemble ⟨.enca, [v]⟩).map encode = some (BitVec.ofNat 16 (0x2000 ||| v))) ∧
  (∀ pos ≤ 7, ∀ code ≤ 255, (assemble ⟨.wscr, [pos, code]⟩).map encode =
    some (BitVec.ofNat 16 (0x3000 ||| pos <<< 8 ||| code))) ∧
  (∀ pos ≤ 7, ∀ code ≤ 255, (assemble ⟨.wseg, [pos, code]⟩).map encode =
    some (BitVec.ofNat 16 (0x4000 ||| pos <<< 8 ||| code))) ∧
  (∀ len ≤ 7, ∀ pos ≤ 7, (assemble ⟨.commit, [len, pos]⟩).map encode =
    some (BitVec.ofNat 16 (0x5000 ||| len <<< 4 ||| pos))) ∧
  (assemble ⟨.clr, []⟩).map encode = some 0x6000#16 ∧
  (assemble ⟨.rdbuf, []⟩).map encode = some 0x7000#16 ∧
  (∀ b ≤ 1, (assemble ⟨.sflip, [b]⟩).map encode = some (BitVec.ofNat 16 (0x8000 ||| b))) ∧
  (assemble ⟨.gflip, []⟩).map encode = some 0x9000#16 ∧
  (∀ level ≤ 255, ∀ on ≤ 1, (assemble ⟨.sbrt, [level, on]⟩).map encode =
    some (BitVec.ofNat 16 (0xA000 ||| on <<< 8 ||| level))) ∧
  (∀ clr ≤ 1, (assemble ⟨.init, [clr]⟩).map encode = some (BitVec.ofNat 16 (0xB000 ||| clr))) ∧
  (assemble ⟨.bstart, []⟩).map encode = some 0xC000#16 ∧
  (assemble ⟨.bstop, []⟩).map encode = some 0xD000#16 ∧
  (∀ b ≤ 255, (assemble ⟨.bwrite, [b]⟩).map encode = some (BitVec.ofNat 16 (0xE000 ||| b))) ∧
  (∀ v > 255, assemble ⟨.encd, [v]⟩ = none ∧ assemble ⟨.enca, [v]⟩ = none ∧ assemble ⟨.bwrite, [v]⟩ = none) ∧
  (∀ pos code, pos > 7 ∨ code > 255 →
    assemble ⟨.wscr, [pos, code]⟩ = none ∧ assemble ⟨.wseg, [pos, code]⟩ = none) ∧
  (∀ len pos, len > 7 ∨ pos > 7 → assemble ⟨.commit, [len, pos]⟩ = none) ∧
  (∀ level on, level > 255 ∨ on > 1 → assemble ⟨.sbrt, [level, on]⟩ = none) ∧
  (∀ b > 1, assemble ⟨.sflip, [b]⟩ = none ∧ assemble ⟨.init, [b]⟩ = none)

/-- Words of the spec's own examples, one or more per family (R71 to R79, R102, R106, R130 to R132, R158 to R172). -/
def Obligations.ExampleWordsDecode : Prop :=
  decode 0x101B#16 = .instr (.encd 0x1B#8) ∧
  decode 0x20B0#16 = .instr (.enca 0xB0#8) ∧
  decode 0x324F#16 = .instr (.wscr 2#3 0x4F#8) ∧
  decode 0x433F#16 = .instr (.wseg 3#3 0x3F#8) ∧
  decode 0x5021#16 = .instr (.commit 2#3 1#3) ∧
  decode 0x6000#16 = .instr .clr ∧
  decode 0x7000#16 = .instr .rdbuf ∧
  decode 0x8001#16 = .instr (.sflip true) ∧
  decode 0x9000#16 = .instr .gflip ∧
  decode 0xA109#16 = .instr (.sbrt 9#8 true) ∧
  decode 0xB001#16 = .instr (.init true) ∧
  decode 0xC000#16 = .instr .bstart ∧
  decode 0xD000#16 = .instr .bstop ∧
  decode 0xE040#16 = .instr (.bwrite 0x40#8)

/-! ## Steps and faults -/

/-- The block takes the host's next word and runs the command it spells (10_state.md R35, 20_memory.md R62). Where the
pending words stand is the model's choice, log 1. -/
def Obligations.StepRunsTheDecodedCommand : Prop :=
  ∀ (s : State) (w : Word) (rest : List Word) (i : Instr),
    Running s → s.cmds = w :: rest → decode w = .instr i → step s = exec i { s with cmds := rest }

/-- 60_exceptions.md R192: a word that matches no row stops the block, the word recorded and nothing else changed. Where
the pending words stand is the model's choice, log 1; that the faulting command takes a next state is its reading, log
2. -/
def Obligations.IllegalWordStopsTheBlock : Prop :=
  ∀ (s : State) (w : Word) (rest : List Word),
    Running s → s.cmds = w :: rest → MatchesNoRow w →
      step s = .next { s with cmds := rest, stopped := some ⟨.illegalCommand, w⟩ }

/-- 60_exceptions.md R191: a position or length outside the buffer stops the block, the word recorded and nothing else
changed. Where the pending words stand is the model's choice, log 1; the next state is its reading, log 2, and so is a recorded
word that is the command's encoding, log 12. -/
def Obligations.RangeFaultRecordsTheWord : Prop :=
  ∀ (s : State) (w : Word) (rest : List Word) (i : Instr),
    Running s → s.cmds = w :: rest → decode w = .instr i → OutOfRange s.width i →
      step s = .next { s with cmds := rest, stopped := some ⟨.range, w⟩ }

/-- "The block takes no further command" (60_exceptions.md R190), "No command leaves the stopped state" (R196). That a
stopped step answers the fault is the model's reading, log 2. -/
def Obligations.StoppedBlockTakesNoCommand : Prop :=
  ∀ (s : State) (st : Stop), s.stopped = some st → step s = .fault st.reason

/-- 10_state.md R34 and 60_exceptions.md R193: STOPPED is none at reset, leaves none only through an illegal word or an
operand out of range, and no step starts from a stopped state. Where the pending words stand is the model's choice, log
1; that a faulting command takes a next state and a stopped block's step answers the fault is its reading, log 2. -/
def Obligations.StopsOnlyAsTheRulesSay : Prop :=
  State.reset.stopped = none ∧
  ∀ s t : State, step s = .next t →
    s.stopped = none ∧
    (t.stopped = none ∨ ∃ w rest, s.cmds = w :: rest ∧
      ((MatchesNoRow w ∧ t.stopped = some ⟨.illegalCommand, w⟩) ∨
        ∃ i, decode w = .instr i ∧ OutOfRange s.width i ∧ t.stopped = some ⟨.range, w⟩))

/-- Nothing but a stopped state keeps the block from going on: every command is open at all times and ends
(60_exceptions.md R193, R198, R204). That a waiting block has a next state is the model's choice, log 1; that a faulting
command takes one and a stopped block's step answers the fault is its reading, log 2. -/
def Obligations.OnlyAStoppedBlockHasNoNextState : Prop :=
  ∀ s : State, (∃ t, step s = .next t) ↔ Running s

/-- RANGE alone among the faults is raised by a decoded command, and only for an operand out of range (60_exceptions.md
R193, R194). That the fault is a next state is the model's reading, log 2; so is the recorded word, the command's
encoding, log 12. -/
def Obligations.OnlyAnOperandOutOfRangeStopsACommand : Prop :=
  ∀ (i : Instr) (s t : State), exec i s = .next t →
    (OutOfRange s.width i → t = { s with stopped := some ⟨.range, encode i⟩ }) ∧
    (¬ OutOfRange s.width i → t.stopped = s.stopped)

/-- A block with no pending command waits unchanged (70_reset_and_hazards.md R211). That waiting is a step is the model's
choice, log 1. -/
def Obligations.WaitingBlockIsUnchanged : Prop :=
  ∀ s : State, Running s → s.cmds = [] → step s = .next s

/-- A step takes exactly one word, and nothing a command writes changes which commands come next (20_memory.md R62,
R66). That the pending words stand in a queue and a step takes one of them is the model's choice and reading, log 1. -/
def Obligations.CommandStreamIsOnlyTaken : Prop :=
  ∀ (s t : State) (w : Word) (rest : List Word), s.cmds = w :: rest → step s = .next t → t.cmds = rest

/-! ## Construction and invariants -/

/-- 10_state.md R38, for every choice of the parameters and draws, and the defaults of the construct arguments (R7, R8). -/
def Obligations.ConstructionFixesTheState : Prop :=
  (∀ (c : Config) (bright : BitVec 4) (live scr : Nat → Byte) (ack : Bool) (a : ConstructArgs),
    let s := State.construct c bright live scr ack a
    s.cfg = c ∧ s.bitDelay = a.bitDelayMicros ∧ s.flip = a.flip ∧ s.bright = bright ∧ s.ackLast = ack ∧
    s.live.length = c.width.count ∧ s.scr.length = c.width.count ∧
    (∀ k < c.width.count, s.live[k]? = some (live k) ∧ s.scr[k]? = some (scr k)) ∧
    s.clkDrv = false ∧ s.dioDrv = false ∧ s.tr = [] ∧ s.stopped = none) ∧
  State.reset.bitDelay = 100 ∧ State.reset.flip = false ∧ State.reset.bright = Config.openBrightReset ∧
  State.reset.clkDrv = false ∧ State.reset.dioDrv = false ∧ State.reset.tr = [] ∧ State.reset.stopped = none

/-- The state after reset meets every invariant below and the constraints on the open parameters (10_state.md R38,
41_encoder.md R101, R105, R107, 30_encoding.md R86). How reset keeps the opaque parameters inside those constraints, by a
mask, is the model's choice, log 3. -/
def Obligations.ResetMeetsTheInvariants : Prop :=
  BuffersExact State.reset ∧ PinsFollowTrace State.reset ∧ AckFollowsTrace State.reset ∧
    SamplesReleased State.reset.tr ∧ State.reset.cfg.wf = true

/-- "The length of LIVE is always exactly N" (10_state.md R23); SCR likewise (R24). -/
def Obligations.StepKeepsBuffersExact : Prop :=
  ∀ s t : State, BuffersExact s → step s = .next t → BuffersExact t

/-- CLK_DRV and DIO_DRV are always what the pin trace says: no other action writes them (10_state.md R31). -/
def Obligations.StepKeepsPinsFollowTrace : Prop :=
  ∀ s t : State, PinsFollowTrace s → step s = .next t → PinsFollowTrace t

/-- ACK_LAST always tells whether the last sample of the trace was low (10_state.md R29, R30). -/
def Obligations.StepKeepsAckFollowsTrace : Prop :=
  ∀ s t : State, AckFollowsTrace s → step s = .next t → AckFollowsTrace t

/-- Every sample happens while DIO is released (10_state.md R32, 42_framer.md R128). -/
def Obligations.StepKeepsSamplesReleased : Prop :=
  ∀ s t : State, SamplesReleased s.tr → step s = .next t → SamplesReleased t.tr

/-- 41_encoder.md R109: no command writes a table, and two lookups of one input give one code. -/
def Obligations.TablesNeverChange : Prop :=
  ∀ s t : State, step s = .next t →
    t.cfg = s.cfg ∧ ∀ v, encDigit t.cfg v = encDigit s.cfg v ∧ encAscii t.cfg v = encAscii s.cfg v

/-- 10_state.md R28: BIT_DELAY is fixed at construction, no command writes it and no rule reads it. -/
def Obligations.BitDelayIsFixedAndUnread : Prop :=
  (∀ (c : Config) (bright : BitVec 4) (live scr : Nat → Byte) (ack : Bool) (a : ConstructArgs),
    (State.construct c bright live scr ack a).bitDelay = a.bitDelayMicros) ∧
  ∀ s t : State, step s = .next t →
    t.bitDelay = s.bitDelay ∧ ∀ d, step { s with bitDelay := d } = .next { t with bitDelay := d }

/-- 10_state.md R33: TR is empty at reset, every Emit appends one event, and no command removes or reorders events. -/
def Obligations.TraceOnlyGrows : Prop :=
  State.reset.tr = [] ∧ (∀ e s, (emit e s).tr = s.tr ++ [e]) ∧
  ∀ s t : State, step s = .next t → ∃ es, t.tr = s.tr ++ es

/-- 30_encoding.md R88: which commands respond, and with what; no other command does. -/
def Obligations.ResponsesAreThoseOfTheRule : Prop :=
  ∀ (i : Instr) (s t : State), exec i s = .next t →
    match i with
    | .encd _ => ∃ c, t.resps = s.resps ++ [.code c]
    | .enca _ => ∃ c, t.resps = s.resps ++ [.code c]
    | .gflip => t.resps = s.resps ++ [.bit s.flip]
    | .rdbuf => s.live.length = s.width → t.resps = s.resps ++ [.codes s.live]
    | .bwrite _ => t.resps = s.resps ++ [.bit (s.answer 0 == .low)]
    | .wscr _ _ => t.resps = s.resps
    | .wseg _ _ => t.resps = s.resps
    | .commit _ _ => t.resps = s.resps
    | .clr => t.resps = s.resps
    | .sflip _ => t.resps = s.resps
    | .sbrt _ _ => t.resps = s.resps
    | .init _ => t.resps = s.resps
    | .bstart => t.resps = s.resps
    | .bstop => t.resps = s.resps

/-! ## The segment encoder -/

/-- 41_encoder.md R102, R103: the word of ENCD; it responds DIGIT_TABLE[v mod 16], bit 7 clear, and changes nothing else. -/
def Obligations.EncdRespondsTheDigit : Prop :=
  ∀ (s : State) (v : Byte), s.cfg.wf = true →
    encode (.encd v) = 0x1000#16 ||| v.setWidth 16 ∧
    ∃ x : Byte, s.cfg.digitTable[v.toNat % 16]? = some x ∧ x.getLsbD 7 = false ∧
      exec (.encd v) s = .next { s with resps := s.resps ++ [.code x] }

/-- 41_encoder.md R106, R108: the word of ENCA; it responds the degree pattern, blank, or ASCII_TABLE[v − 32], bit 7 clear, and changes
nothing else. -/
def Obligations.EncaRespondsTheGlyph : Prop :=
  ∀ (s : State) (v : Byte), s.cfg.wf = true →
    encode (.enca v) = 0x2000#16 ||| v.setWidth 16 ∧
    ∃ x : Byte, exec (.enca v) s = .next { s with resps := s.resps ++ [.code x] } ∧ x.getLsbD 7 = false ∧
      (v.toNat = 176 → x = s.cfg.degreeCode) ∧
      (v.toNat < 32 ∨ (127 < v.toNat ∧ v.toNat ≠ 176) → x = 0x00#8) ∧
      (32 ≤ v.toNat ∧ v.toNat ≤ 127 → s.cfg.asciiTable[v.toNat - 32]? = some x)

/-! ## The orientation mux -/

/-- 43_buffer.md R150, bit by bit. -/
def Obligations.FlipSegRotatesTheSegments : Prop :=
  ∀ x : Byte, (flipSeg x).extractLsb' 3 3 = x.extractLsb' 0 3 ∧ (flipSeg x).extractLsb' 0 3 = x.extractLsb' 3 3 ∧
    (flipSeg x).getLsbD 6 = x.getLsbD 6 ∧ (flipSeg x).getLsbD 7 = false

/-- 43_buffer.md R154 and R151: data[k] is LIVE[k] unflipped, and the mirrored entry rotated with the borrowed dot
flipped. -/
def Obligations.WireDataFollowsTheOrientation : Prop :=
  ∀ s : State,
    (s.live.length = s.width → s.flip = false → wireData s = s.live) ∧
    (s.flip = true → ∀ k < s.width, (wireData s)[k]? = some
      (flipSeg (s.live.getD (s.width - 1 - k) 0#8) |||
        (if 0 ≤ (s.width : Int) - k - 2 then s.live.getD (s.width - k - 2) 0#8 &&& 0x80#8 else 0x00#8)))

/-- 43_buffer.md R175: the mirror twice gives back the A–G bits. -/
def Obligations.FlipTwiceKeepsTheSegments : Prop :=
  (∀ x : Byte, flipSeg (flipSeg x) = x &&& 0x7F#8) ∧
  ∀ (s : State) (k : Nat), k < s.width → flipSeg (flipOut s (s.width - 1 - k)) = readLive s k &&& 0x7F#8

/-- 43_buffer.md R152: where the segments and the dot of each entry go under FLIP = 1, and that the last entry's dot is
dropped. -/
def Obligations.FlippedDotsMoveOneToTheLeft : Prop :=
  ∀ s : State,
    (flipOut s (s.width - 1)).getLsbD 7 = false ∧
    (∀ j, j + 2 ≤ s.width → (flipOut s (s.width - 2 - j)).getLsbD 7 = (readLive s j).getLsbD 7) ∧
    (∀ j < s.width, flipOut s (s.width - 1 - j) &&& 0x7F#8 = flipSeg (readLive s j)) ∧
    (∀ x : Byte, x &&& 0x7F#8 = readLive s (s.width - 1) &&& 0x7F#8 →
      ∀ k < s.width, flipOut { s with live := s.live.set (s.width - 1) x } k = flipOut s k) ∧
    (∀ x : Byte, flipSeg (flipSeg x) = x &&& 0x7F#8)

/-! ## The framer's commands -/

/-- 42_framer.md R130: BSTART, its word and its frame. -/
def Obligations.BstartSendsAStart : Prop :=
  encode .bstart = 0xC000#16 ∧
  ∀ s : State, exec .bstart s = .next { s with dioDrv := true, tr := s.tr ++ [.dioLo, .wait] }

/-- 42_framer.md R131, R124, R125: BSTOP, its word and its frame. -/
def Obligations.BstopSendsAStop : Prop :=
  encode .bstop = 0xD000#16 ∧
  ∀ s : State, exec .bstop s = .next { s with
    clkDrv := false, dioDrv := false, tr := s.tr ++ [.dioLo, .wait, .clkRel, .wait, .dioRel, .wait] }

/-- BWRITE (42_framer.md R132, R126, R128) sends eight bit slots, bit 0 first, and the acknowledgement phase, for either
policy and any sampled level, and responds the acknowledgement. How the answers are used up (`dioIn`, `draws`) is the
model's choice, log 6. -/
def Obligations.BwriteSendsAByte : Prop :=
  ∀ (s : State) (b : Byte), exec (.bwrite b) s = .next { s with
    clkDrv := true
    dioDrv := decide ((s.cfg.ackDrivePolicy = .onNack ∧ s.answer 0 = .high) ∨
      (s.cfg.ackDrivePolicy = .onAck ∧ s.answer 0 = .low))
    tr := s.tr ++ byteEvents s.cfg.ackDrivePolicy b (s.answer 0)
    ackLast := s.answer 0 == .low
    resps := s.resps ++ [.bit (s.answer 0 == .low)]
    dioIn := s.dioIn.drop 1
    draws := s.draws + (1 - s.dioIn.length) }

/-- 42_framer.md R134, 30_encoding.md R84: inside a byte, DIO is acted on only while CLK is driven low, but for the drive
right after the sample. -/
def Obligations.DioMovesUnderALowClock : Prop :=
  ∀ (s t : State) (b : Byte) (before after : List Event) (e : Event),
    exec (.bwrite b) s = .next t → newEvents s t = before ++ e :: after → e = .dioLo ∨ e = .dioRel →
      drivenBy .clkLo .clkRel before = true ∨ (e = .dioLo ∧ ∃ a, before.getLast? = some (.sample a))

/-- RAWFRAME (30_encoding.md R83, R84, R87): a frame of any bytes, each acknowledgement responded, the buffers
untouched. -/
def Obligations.RawFrameSendsOneFrame : Prop :=
  ∀ (s : State) (bytes : List Byte), ∃ t, execAll (Pseudo.rawFrame bytes).expand s = .next t ∧
    t.tr = s.tr ++ frameEvents s.cfg.ackDrivePolicy s.answer 0 bytes ∧
    t.resps = s.resps ++ (List.range bytes.length).map (fun k => .bit (s.answer k == .low)) ∧
    t.clkDrv = false ∧ t.dioDrv = false ∧
    t.live = s.live ∧ t.scr = s.scr ∧ t.flip = s.flip ∧ t.bright = s.bright ∧ t.stopped = s.stopped

/-! ## The buffer's commands

`flushed` also says how a flush uses up the peripheral's answers (`dioIn`, `draws`): that is the model's choice, log 6. -/

/-- 43_buffer.md R158: the word of WSCR; it writes one scratch entry and nothing else, or stops with RANGE
(60_exceptions.md R191). That the fault is a next state is the model's reading, log 2; so is the recorded word, the
command's encoding, log 12. -/
def Obligations.WscrWritesOneScratchEntry : Prop :=
  ∀ (s : State) (pos : BitVec 3) (code : Byte),
    encode (.wscr pos code) = 0x3000#16 ||| pos.setWidth 16 <<< 8 ||| code.setWidth 16 ∧
    (pos.toNat < s.width → exec (.wscr pos code) s = .next { s with scr := s.scr.set pos.toNat code }) ∧
    (s.width ≤ pos.toNat →
      exec (.wscr pos code) s = .next { s with stopped := some ⟨.range, encode (.wscr pos code)⟩ })

/-- 43_buffer.md R160, R153, R155: WSEG writes one live entry and sends the three frames, or stops with RANGE
(60_exceptions.md R191; the fault as a next state and its recorded word are the model's readings, log 2 and 12). -/
def Obligations.WsegWritesOneEntryAndFlushes : Prop :=
  ∀ (s : State) (pos : BitVec 3) (code : Byte),
    (pos.toNat < s.width →
      exec (.wseg pos code) s = .next (flushed { s with live := s.live.set pos.toNat code })) ∧
    (s.width ≤ pos.toNat →
      exec (.wseg pos code) s = .next { s with stopped := some ⟨.range, encode (.wseg pos code)⟩ })

/-- 43_buffer.md R162: COMMIT puts SCR[0..len−1] at LIVE[pos..pos+len−1] and sends the three frames, or stops with
RANGE (60_exceptions.md R191; the fault as a next state and its recorded word are the model's readings, log 2 and 12). -/
def Obligations.CommitCopiesScratchAndFlushes : Prop :=
  ∀ (s : State) (len pos : BitVec 3), BuffersExact s →
    (pos.toNat < s.width → pos.toNat + len.toNat ≤ s.width →
      exec (.commit len pos) s = .next (flushed { s with
        live := s.live.take pos.toNat ++ s.scr.take len.toNat ++ s.live.drop (pos.toNat + len.toNat) })) ∧
    (s.width ≤ pos.toNat ∨ s.width < pos.toNat + len.toNat →
      exec (.commit len pos) s = .next { s with stopped := some ⟨.range, encode (.commit len pos)⟩ })

/-- 43_buffer.md R164: CLR zeroes all N entries and flushes. -/
def Obligations.ClrZeroesAndFlushes : Prop :=
  ∀ s : State, s.live.length = s.width →
    exec .clr s = .next (flushed { s with live := List.replicate s.width 0x00#8 }) ∧
    wireData { s with live := List.replicate s.width 0x00#8 } = List.replicate s.width 0x00#8

/-- 43_buffer.md R166: the word of RDBUF; it responds the canonical buffer, whatever FLIP is, and changes nothing else. -/
def Obligations.RdbufRespondsTheBuffer : Prop :=
  encode .rdbuf = 0x7000#16 ∧
  ∀ s : State, s.live.length = s.width → exec .rdbuf s = .next { s with resps := s.resps ++ [.codes s.live] }

/-- 43_buffer.md R168, R170: SFLIP and GFLIP, their words and their frames. -/
def Obligations.FlipIsSetAndRead : Prop :=
  (∀ (s : State) (b : Bool), encode (.sflip b) = 0x8000#16 ||| (if b then 1#16 else 0#16) ∧
    exec (.sflip b) s = .next { s with flip := b }) ∧
  encode .gflip = 0x9000#16 ∧ ∀ s : State, exec .gflip s = .next { s with resps := s.resps ++ [.bit s.flip] }

/-- 43_buffer.md R171, 10_state.md R27: the word of SBRT; it stores the level masked to 3 bits and the on flag, and nothing else. -/
def Obligations.SbrtStoresTheMaskedLevel : Prop :=
  ∀ (s : State) (level : Byte) (on : Bool),
    encode (.sbrt level on) = 0xA000#16 ||| (if on then 0x100#16 else 0#16) ||| level.setWidth 16 ∧ ∃ v : BitVec 4,
    exec (.sbrt level on) s = .next { s with bright := v } ∧
    State.level { s with bright := v } = level.extractLsb' 0 3 ∧ State.on { s with bright := v } = on ∧
    v.setWidth 8 = (level &&& 0x7#8) ||| (if on then 0x8#8 else 0#8)

/-- 43_buffer.md R172: INIT releases both lines, and with clr = 1 also clears and flushes. -/
def Obligations.InitReleasesAndMayClear : Prop :=
  ∀ s : State,
    exec (.init false) s = .next { s with
      clkDrv := false, dioDrv := false, tr := s.tr ++ [.clkRel, .dioRel] } ∧
    (s.live.length = s.width → exec (.init true) s = .next (flushed { s with
      clkDrv := false, dioDrv := false, tr := s.tr ++ [.clkRel, .dioRel],
      live := List.replicate s.width 0x00#8 }))

/-! ## Laws of the whole block -/

/-- 43_buffer.md R156: the size of a flush, the pseudo-command FLUSH being exactly one: three frames, N + 3 bytes, and the
numbers of events, waits and samples. -/
def Obligations.FlushHasTheStatedSize : Prop :=
  ∀ s t : State, exec (.commit 0#3 0#3) s = .next t →
    newEvents s t = flushEvents s.cfg s.answer (wireData s) s.bright ∧ (wireData s).length = s.width ∧
    (newEvents s t).length = 24 + 49 * (s.width + 3) + drivesIn s.cfg.ackDrivePolicy (newEvents s t) ∧
    drivesIn s.cfg.ackDrivePolicy (newEvents s t) ≤ s.width + 3 ∧
    (newEvents s t).count .wait = 12 + 20 * (s.width + 3) ∧
    (newEvents s t).count (.sample .low) + (newEvents s t).count (.sample .high) = s.width + 3 ∧
    (s.cfg.width = .four → 367 ≤ (newEvents s t).length ∧ (newEvents s t).length ≤ 374 ∧
      (newEvents s t).count .wait = 152) ∧
    (s.cfg.width = .six → 465 ≤ (newEvents s t).length ∧ (newEvents s t).length ≤ 474 ∧
      (newEvents s t).count .wait = 192)

/-- A flush, read on the two lines, is the three frames with their bytes, least-significant bit first (20_memory.md R53,
30_encoding.md R84, R85): for a receiver that starts with the lines released and acknowledges every byte, under ON_NACK, so
that no drive after a sample looks like a start (42_framer.md R134). -/
def Obligations.ReceiverReadsTheThreeFrames : Prop :=
  ∀ s t : State, s.clkDrv = false → s.dioDrv = false → s.cfg.ackDrivePolicy = .onNack →
    (∀ k, k < s.width + 3 → s.answer k = .low) → exec (.commit 0#3 0#3) s = .next t →
      framesSeen (newEvents s t) =
        [[s.cfg.cmdSetData], s.cfg.cmdSetAddr :: wireData s, [s.cfg.cmdDisplay ||| s.bright.setWidth 8]]

/-- 70_reset_and_hazards.md R231: how many bit-delays each command waits. -/
def Obligations.WaitsOfEachCommand : Prop :=
  ∀ (i : Instr) (s t : State), exec i s = .next t → ¬ OutOfRange s.width i →
    t.tr.count .wait = s.tr.count .wait +
      match i with
      | .bstart => 1
      | .bstop => 3
      | .bwrite _ => 20
      | .encd _ => 0
      | .enca _ => 0
      | .wscr _ _ => 0
      | .rdbuf => 0
      | .sflip _ => 0
      | .gflip => 0
      | .sbrt _ _ => 0
      | .init clr => if clr then 12 + 20 * (s.width + 3) else 0
      | .wseg _ _ => 12 + 20 * (s.width + 3)
      | .commit _ _ => 12 + 20 * (s.width + 3)
      | .clr => 12 + 20 * (s.width + 3)

/-- Every command finishes after at most the events of one flush (60_exceptions.md R204), and INIT 1 after the two release
events before its flush (43_buffer.md R172). That a faulting command takes a next state is the model's reading, log 2. -/
def Obligations.EveryCommandEnds : Prop :=
  ∀ (i : Instr) (s : State), ∃ t, exec i s = .next t ∧
    t.tr.length ≤ s.tr.length + (24 + 50 * (s.width + 3)) + if i = .init true then 2 else 0

/-- 42_framer.md R129: the peripheral's answers change only ACK_LAST, the sampled levels, the drive after a sample and
BWRITE's response. -/
def Obligations.AnswersChangeOnlyTheAcknowledgement : Prop :=
  ∀ (i : Instr) (s t : State) (answers : List Level) (n : Nat), exec i s = .next t →
    ∃ u, exec i { s with dioIn := answers, draws := n } = .next u ∧
      u.live = t.live ∧ u.scr = t.scr ∧ u.flip = t.flip ∧ u.bright = t.bright ∧ u.stopped = t.stopped ∧
      u.clkDrv = t.clkDrv ∧ stripAck (newEvents s u) = stripAck (newEvents s t) ∧
      ((∀ b, i ≠ .bwrite b) → u.resps = t.resps ∧ u.dioDrv = t.dioDrv)

/-- 43_buffer.md R173: an entry of LIVE that changes lies in the range the command writes. -/
def Obligations.WritesTouchOnlyTheirRange : Prop :=
  ∀ (i : Instr) (s t : State) (k : Nat), exec i s = .next t → t.live[k]? ≠ s.live[k]? →
    (∃ pos code, i = .wseg pos code ∧ k = pos.toNat) ∨
    (∃ len pos, i = .commit len pos ∧ pos.toNat ≤ k ∧ k < pos.toNat + len.toNat) ∨
    i = .clr ∨ i = .init true

/-- The writers of SCR, FLIP, BRIGHT and ACK_LAST (10_state.md R24, R25, R26, R29, R30). -/
def Obligations.OnlyTheNamedCommandsWrite : Prop :=
  ∀ (i : Instr) (s t : State), exec i s = .next t →
    (t.scr ≠ s.scr → ∃ pos code, i = .wscr pos code) ∧
    (t.flip ≠ s.flip → ∃ b, i = .sflip b) ∧
    (t.bright ≠ s.bright → ∃ level on, i = .sbrt level on) ∧
    (t.ackLast ≠ s.ackLast →
      (∃ pos code, i = .wseg pos code) ∨ (∃ len pos, i = .commit len pos) ∨ i = .clr ∨ i = .init true ∨
      ∃ b, i = .bwrite b)

/-- 20_memory.md R59: the commands that only respond, and the commands that always send a full flush, computed from the
buffer they leave (R57). -/
def Obligations.ReadersOnlyRespondAndWritersFlush : Prop :=
  (∀ (i : Instr) (s t : State), (i = .rdbuf ∨ i = .gflip ∨ (∃ v, i = .encd v) ∨ ∃ v, i = .enca v) →
    exec i s = .next t → t = { s with resps := t.resps }) ∧
  (∀ (i : Instr) (s t : State), ((∃ pos code, i = .wseg pos code) ∨ (∃ len pos, i = .commit len pos) ∨ i = .clr) →
    ¬ OutOfRange s.width i → exec i s = .next t →
    t.tr = s.tr ++ flushEvents s.cfg s.answer (wireData t) s.bright) ∧
  ∀ s t : State, exec (.init true) s = .next t →
    t.tr = s.tr ++ [.clkRel, .dioRel] ++ flushEvents s.cfg s.answer (wireData t) s.bright

/-- 20_memory.md R60: a repeated WSEG leaves LIVE the same and sends a second complete flush of the same events, but for
the sampled levels and the drive after each. -/
def Obligations.RepeatedWsegFlushesAgain : Prop :=
  ∀ (s t u : State) (pos : BitVec 3) (code : Byte), pos.toNat < s.width →
    exec (.wseg pos code) s = .next t → exec (.wseg pos code) t = .next u →
      u.live = t.live ∧ stripAck (newEvents t u) = stripAck (newEvents s t) ∧
      24 + 49 * (s.width + 3) ≤ (newEvents t u).length

/-- 43_buffer.md R174: RDBUF after a writing command returns the written values, whatever the acknowledgements were. -/
def Obligations.ReadBackReturnsTheWrittenCodes : Prop :=
  ∀ s t u : State, BuffersExact s → exec .rdbuf t = .next u →
    (∀ pos code, pos.toNat < s.width → exec (.wseg pos code) s = .next t →
      u.resps = s.resps ++ [.codes (s.live.set pos.toNat code)]) ∧
    (∀ len pos, pos.toNat < s.width → pos.toNat + len.toNat ≤ s.width → exec (.commit len pos) s = .next t →
      u.resps = s.resps ++
        [.codes (s.live.take pos.toNat ++ s.scr.take len.toNat ++ s.live.drop (pos.toNat + len.toNat))]) ∧
    (exec .clr s = .next t ∨ exec (.init true) s = .next t →
      u.resps = s.resps ++ [.codes (List.replicate s.width 0x00#8)])

/-- SFLIP and SBRT send nothing, and the next flush carries their values (70_reset_and_hazards.md R220, 43_buffer.md R168,
R171). -/
def Obligations.OrientationAndBrightnessTakeEffectAtTheFlush : Prop :=
  (∀ (s t : State) (b : Bool), exec (.sflip b) s = .next t →
    t.tr = s.tr ∧ (∃ u, exec .gflip t = .next u ∧ u.resps = s.resps ++ [.bit b]) ∧
    ∃ u, exec (.commit 0#3 0#3) t = .next u ∧
      u.tr = s.tr ++ flushEvents s.cfg s.answer (wireData { s with flip := b }) s.bright) ∧
  ∀ (s t : State) (level : Byte) (on : Bool), exec (.sbrt level on) s = .next t →
    t.tr = s.tr ∧ ∃ u, exec (.commit 0#3 0#3) t = .next u ∧
      u.tr = s.tr ++ flushEvents s.cfg s.answer (wireData s)
        (BitVec.ofBool on ++ level.extractLsb' 0 3)

/-- LIVE holds canonical values: what a command leaves in it does not depend on FLIP (10_state.md R22). -/
def Obligations.LiveIgnoresTheOrientation : Prop :=
  ∀ (i : Instr) (s t : State) (b : Bool), exec i s = .next t →
    ∃ u, exec i { s with flip := b } = .next u ∧ u.live = t.live

/-- The ON bit and the level change nothing in the block: every command is accepted just so and leaves every other field
the same, and the events differ at most in the DISPLAY byte of one flush of the same data (60_exceptions.md R203). That a
faulting command takes a next state is the model's reading, log 2. -/
def Obligations.BrightnessChangesOnlyTheDisplayByte : Prop :=
  ∀ (i : Instr) (s t : State) (v : BitVec 4), exec i s = .next t →
    ∃ u, exec i { s with bright := v } = .next u ∧ u = { t with bright := u.bright, tr := u.tr } ∧
      ((∃ level on, i = .sbrt level on) → u.bright = t.bright) ∧
      ((∀ level on, i ≠ .sbrt level on) → u.bright = v) ∧
      (newEvents s u = newEvents s t ∨ ∃ before,
        newEvents s t = before ++ flushEvents s.cfg s.answer (wireData t) s.bright ∧
        newEvents s u = before ++ flushEvents s.cfg s.answer (wireData t) v)

/-- 43_buffer.md R163: SETSEGS reproduces setSegments(codes[], length, pos): the codes at LIVE[pos..], one flush, and
SCR[0..m−1] changed. -/
def Obligations.SetSegsReproducesSetSegments : Prop :=
  ∀ (s : State) (pos : BitVec 3) (codes : List Byte),
    BuffersExact s → codes.length ≤ s.width → pos.toNat < s.width → pos.toNat + codes.length ≤ s.width →
      execAll (Pseudo.setSegs pos codes).expand s = .next (flushed { s with
        live := s.live.take pos.toNat ++ codes ++ s.live.drop (pos.toNat + codes.length)
        scr := codes ++ s.scr.drop codes.length })
end

