-- ==== Sys2Proof/Laws/PerInstr.lean ====
section
/-! SUPPORT. Statements made per instruction: the encoding of each command carries its row's fixed bits. -/

namespace Sys2Proof.Laws

/-- The row of the opcode table that a mnemonic names: match and mask (30_encoding.md R79). -/
def MatchesRow.fixed : Mnemonic → Word × Word
  | .encd => (0x1000#16, 0xFF00#16)
  | .enca => (0x2000#16, 0xFF00#16)
  | .wscr => (0x3000#16, 0xF800#16)
  | .wseg => (0x4000#16, 0xF800#16)
  | .commit => (0x5000#16, 0xFF88#16)
  | .clr => (0x6000#16, 0xFFFF#16)
  | .rdbuf => (0x7000#16, 0xFFFF#16)
  | .sflip => (0x8000#16, 0xFFFE#16)
  | .gflip => (0x9000#16, 0xFFFF#16)
  | .sbrt => (0xA000#16, 0xFE00#16)
  | .init => (0xB000#16, 0xFFFE#16)
  | .bstart => (0xC000#16, 0xFFFF#16)
  | .bstop => (0xD000#16, 0xFFFF#16)
  | .bwrite => (0xE000#16, 0xFF00#16)

/-- The command's word has its row's fixed bits, the reserved bits among them zero. -/
def MatchesRow.Statement (i : Instr) : Prop :=
  encode i &&& (MatchesRow.fixed i.mnemonic).2 = (MatchesRow.fixed i.mnemonic).1

/-! The three formats with operand bits beside the fixed ones, checked at every operand value. -/

theorem fixedBits_byte (op : BitVec 4) (v : Byte) : (op ++ 0#4 ++ v : Word) &&& 0xFF00#16 = op ++ 0#12 := by
  revert op v
  decide

theorem fixedBits_position (op : BitVec 4) (pos : BitVec 3) (v : Byte) :
    (op ++ 0#1 ++ pos ++ v : Word) &&& 0xF800#16 = op ++ 0#12 := by
  have e : (op ++ 0#1 ++ pos ++ v : Word) = (op ++ 0#1 : BitVec 5) ++ (pos ++ v : BitVec 11) := by
    apply BitVec.eq_of_toNat_eq
    simp only [BitVec.toNat_append, Nat.shiftLeft_or_distrib, ← Nat.shiftLeft_add, Nat.or_assoc]
  have m : (0xF800#16 : Word) = BitVec.allOnes 5 ++ 0#11 := rfl
  have z : ∀ o : BitVec 4, (o ++ 0#12 : Word) = (o ++ 0#1 : BitVec 5) ++ 0#11 := by decide
  rw [e, m, BitVec.and_append, BitVec.and_allOnes, BitVec.and_zero, z]

theorem fixedBits_flag (op : BitVec 4) (b : Bool) :
    (op ++ 0#11 ++ BitVec.ofBool b : Word) &&& 0xFFFE#16 = op ++ 0#12 := by
  revert op b
  decide

namespace MatchesRow

theorem encd (v : Byte) : Statement (.encd v) := fixedBits_byte 0x1#4 v
theorem enca (v : Byte) : Statement (.enca v) := fixedBits_byte 0x2#4 v
theorem wscr (pos : BitVec 3) (code : Byte) : Statement (.wscr pos code) := fixedBits_position 0x3#4 pos code
theorem wseg (pos : BitVec 3) (code : Byte) : Statement (.wseg pos code) := fixedBits_position 0x4#4 pos code

theorem commit (len pos : BitVec 3) : Statement (.commit len pos) := by
  revert len pos
  unfold Statement
  decide

theorem clr : Statement .clr := rfl
theorem rdbuf : Statement .rdbuf := rfl
theorem sflip (b : Bool) : Statement (.sflip b) := fixedBits_flag 0x8#4 b
theorem gflip : Statement .gflip := rfl

theorem sbrt (level : Byte) (on : Bool) : Statement (.sbrt level on) := by
  revert level on
  unfold Statement
  decide

theorem init (clr : Bool) : Statement (.init clr) := fixedBits_flag 0xB#4 clr
theorem bstart : Statement .bstart := rfl
theorem bstop : Statement .bstop := rfl
theorem bwrite (b : Byte) : Statement (.bwrite b) := fixedBits_byte 0xE#4 b

end MatchesRow

end Sys2Proof.Laws
end

