-- ==== Sys2Proof/Laws/Encoding.lean ====
section
/-! SUPPORT. The decoder, said once: a word decodes exactly as the row it matches, and its fields reassemble the word. -/

namespace Sys2Proof.Laws

/-! Rows. -/

/-- A word that matches a row has that row's opcode: every mask covers w[15:12] (30_encoding.md R79). -/
theorem opField_of_hits {w : Word} {r : Row} (hr : r ∈ opcodeTable) (h : r.hits w = true) :
    opField w = opField r.pat := by
  have hm : ∀ q ∈ opcodeTable, opField q.mask = BitVec.allOnes 4 := by decide
  have he : w &&& r.mask = r.pat := by simpa [Row.hits] using h
  have hx : opField (w &&& r.mask) = opField w &&& opField r.mask := by
    simp [opField, BitVec.extractLsb'_and]
  rw [← he, hx, hm r hr, BitVec.and_allOnes]

/-- "The rows are disjoint, because each has a distinct op" (30_encoding.md R79). -/
theorem row_unique {w : Word} {r q : Row} (hr : r ∈ opcodeTable) (hq : q ∈ opcodeTable)
    (h1 : r.hits w = true) (h2 : q.hits w = true) : r = q := by
  have hop : ∀ a ∈ opcodeTable, ∀ b ∈ opcodeTable, opField a.pat = opField b.pat → a = b := by decide
  exact hop r hr q hq ((opField_of_hits hr h1).symm.trans (opField_of_hits hq h2))

/-- A word decodes as the row it matches. -/
theorem decode_of_hits {w : Word} {r : Row} (hr : r ∈ opcodeTable) (h : r.hits w = true) :
    decode w = .instr (instrOf w r.mnemonic) := by
  unfold decode
  cases hf : opcodeTable.find? (·.hits w) with
  | none => exact absurd h (by simpa using List.find?_eq_none.mp hf r hr)
  | some q =>
    rw [row_unique (List.mem_of_find?_eq_some hf) hr (by simpa using List.find?_some (p := fun r : Row => r.hits w) hf) h]

/-- A word that decodes matches a row, and is read as that row says. -/
theorem hits_of_decode {w : Word} {i : Instr} (h : decode w = .instr i) :
    ∃ r ∈ opcodeTable, r.hits w = true ∧ i = instrOf w r.mnemonic := by
  unfold decode at h
  cases hf : opcodeTable.find? (·.hits w) with
  | none =>
    rw [hf] at h
    dsimp only at h
    split at h <;> cases h
  | some q =>
    rw [hf] at h
    exact ⟨q, List.mem_of_find?_eq_some hf, by simpa using List.find?_some (p := fun r : Row => r.hits w) hf, (Decoded.instr.inj h).symm⟩

/-! Fields: the operand fields of a word that matches a row, put back in their places, give the word. -/

/-- Bit by bit, what a match says. -/
theorem getLsbD_of_match {w m p : Word} (h : w &&& m = p) (k : Nat) :
    (w.getLsbD k && m.getLsbD k) = p.getLsbD k := by
  rw [← h, BitVec.getLsbD_and]

theorem reassemble_byte {w : Word} {op : BitVec 4} (h : w &&& 0xFF00#16 = op ++ 0#12) :
    (op ++ 0#4 ++ byteField w : Word) = w := by
  have hb := getLsbD_of_match h
  apply BitVec.eq_of_getLsbD_eq
  intro k hk
  have := hb k
  simp only [BitVec.getLsbD_append, byteField, BitVec.getLsbD_extractLsb'] at this ⊢
  interval_cases k <;> simp_all

theorem reassemble_position {w : Word} {op : BitVec 4} (h : w &&& 0xF800#16 = op ++ 0#12) :
    (op ++ 0#1 ++ posFieldP w ++ byteField w : Word) = w := by
  have hb := getLsbD_of_match h
  apply BitVec.eq_of_getLsbD_eq
  intro k hk
  have := hb k
  simp only [BitVec.getLsbD_append, posFieldP, byteField, BitVec.getLsbD_extractLsb'] at this ⊢
  interval_cases k <;> simp_all

theorem reassemble_range {w : Word} {op : BitVec 4} (h : w &&& 0xFF88#16 = op ++ 0#12) :
    (op ++ 0#5 ++ lenField w ++ 0#1 ++ posFieldR w : Word) = w := by
  have hb := getLsbD_of_match h
  apply BitVec.eq_of_getLsbD_eq
  intro k hk
  have := hb k
  simp only [BitVec.getLsbD_append, lenField, posFieldR, BitVec.getLsbD_extractLsb'] at this ⊢
  interval_cases k <;> simp_all

theorem reassemble_flag {w : Word} {op : BitVec 4} (h : w &&& 0xFFFE#16 = op ++ 0#12) :
    (op ++ 0#11 ++ BitVec.ofBool (flagField w) : Word) = w := by
  have hb := getLsbD_of_match h
  apply BitVec.eq_of_getLsbD_eq
  intro k hk
  have := hb k
  simp only [BitVec.getLsbD_append, flagField, BitVec.getLsbD_ofBool] at this ⊢
  interval_cases k <;> simp_all

theorem reassemble_brightness {w : Word} {op : BitVec 4} (h : w &&& 0xFE00#16 = op ++ 0#12) :
    (op ++ 0#3 ++ BitVec.ofBool (onField w) ++ byteField w : Word) = w := by
  have hb := getLsbD_of_match h
  apply BitVec.eq_of_getLsbD_eq
  intro k hk
  have := hb k
  simp only [BitVec.getLsbD_append, onField, byteField, BitVec.getLsbD_extractLsb', BitVec.getLsbD_ofBool] at this ⊢
  interval_cases k <;> simp_all

end Sys2Proof.Laws
end

