-- ==== Sys2Proof/Laws/State.lean ====
section
/-! SUPPORT. One lemma per field per update of the state: what the update leaves in the field. -/

namespace Sys2Proof.Machine

/-! writeLive -/

@[simp] theorem writeLive_cfg (k : Nat) (v : Byte) (s : State) :
    (writeLive k v s).cfg = s.cfg := rfl
@[simp] theorem writeLive_bitDelay (k : Nat) (v : Byte) (s : State) :
    (writeLive k v s).bitDelay = s.bitDelay := rfl
@[simp] theorem writeLive_live (k : Nat) (v : Byte) (s : State) :
    (writeLive k v s).live = s.live.set k v := rfl
@[simp] theorem writeLive_scr (k : Nat) (v : Byte) (s : State) :
    (writeLive k v s).scr = s.scr := rfl
@[simp] theorem writeLive_flip (k : Nat) (v : Byte) (s : State) :
    (writeLive k v s).flip = s.flip := rfl
@[simp] theorem writeLive_bright (k : Nat) (v : Byte) (s : State) :
    (writeLive k v s).bright = s.bright := rfl
@[simp] theorem writeLive_ackLast (k : Nat) (v : Byte) (s : State) :
    (writeLive k v s).ackLast = s.ackLast := rfl
@[simp] theorem writeLive_clkDrv (k : Nat) (v : Byte) (s : State) :
    (writeLive k v s).clkDrv = s.clkDrv := rfl
@[simp] theorem writeLive_dioDrv (k : Nat) (v : Byte) (s : State) :
    (writeLive k v s).dioDrv = s.dioDrv := rfl
@[simp] theorem writeLive_tr (k : Nat) (v : Byte) (s : State) :
    (writeLive k v s).tr = s.tr := rfl
@[simp] theorem writeLive_stopped (k : Nat) (v : Byte) (s : State) :
    (writeLive k v s).stopped = s.stopped := rfl
@[simp] theorem writeLive_resps (k : Nat) (v : Byte) (s : State) :
    (writeLive k v s).resps = s.resps := rfl
@[simp] theorem writeLive_cmds (k : Nat) (v : Byte) (s : State) :
    (writeLive k v s).cmds = s.cmds := rfl
@[simp] theorem writeLive_dioIn (k : Nat) (v : Byte) (s : State) :
    (writeLive k v s).dioIn = s.dioIn := rfl
@[simp] theorem writeLive_draws (k : Nat) (v : Byte) (s : State) :
    (writeLive k v s).draws = s.draws := rfl

/-! writeScr -/

@[simp] theorem writeScr_cfg (k : Nat) (v : Byte) (s : State) :
    (writeScr k v s).cfg = s.cfg := rfl
@[simp] theorem writeScr_bitDelay (k : Nat) (v : Byte) (s : State) :
    (writeScr k v s).bitDelay = s.bitDelay := rfl
@[simp] theorem writeScr_live (k : Nat) (v : Byte) (s : State) :
    (writeScr k v s).live = s.live := rfl
@[simp] theorem writeScr_scr (k : Nat) (v : Byte) (s : State) :
    (writeScr k v s).scr = s.scr.set k v := rfl
@[simp] theorem writeScr_flip (k : Nat) (v : Byte) (s : State) :
    (writeScr k v s).flip = s.flip := rfl
@[simp] theorem writeScr_bright (k : Nat) (v : Byte) (s : State) :
    (writeScr k v s).bright = s.bright := rfl
@[simp] theorem writeScr_ackLast (k : Nat) (v : Byte) (s : State) :
    (writeScr k v s).ackLast = s.ackLast := rfl
@[simp] theorem writeScr_clkDrv (k : Nat) (v : Byte) (s : State) :
    (writeScr k v s).clkDrv = s.clkDrv := rfl
@[simp] theorem writeScr_dioDrv (k : Nat) (v : Byte) (s : State) :
    (writeScr k v s).dioDrv = s.dioDrv := rfl
@[simp] theorem writeScr_tr (k : Nat) (v : Byte) (s : State) :
    (writeScr k v s).tr = s.tr := rfl
@[simp] theorem writeScr_stopped (k : Nat) (v : Byte) (s : State) :
    (writeScr k v s).stopped = s.stopped := rfl
@[simp] theorem writeScr_resps (k : Nat) (v : Byte) (s : State) :
    (writeScr k v s).resps = s.resps := rfl
@[simp] theorem writeScr_cmds (k : Nat) (v : Byte) (s : State) :
    (writeScr k v s).cmds = s.cmds := rfl
@[simp] theorem writeScr_dioIn (k : Nat) (v : Byte) (s : State) :
    (writeScr k v s).dioIn = s.dioIn := rfl
@[simp] theorem writeScr_draws (k : Nat) (v : Byte) (s : State) :
    (writeScr k v s).draws = s.draws := rfl

/-! setFlip -/

@[simp] theorem setFlip_cfg (b : Bool) (s : State) :
    (setFlip b s).cfg = s.cfg := rfl
@[simp] theorem setFlip_bitDelay (b : Bool) (s : State) :
    (setFlip b s).bitDelay = s.bitDelay := rfl
@[simp] theorem setFlip_live (b : Bool) (s : State) :
    (setFlip b s).live = s.live := rfl
@[simp] theorem setFlip_scr (b : Bool) (s : State) :
    (setFlip b s).scr = s.scr := rfl
@[simp] theorem setFlip_flip (b : Bool) (s : State) :
    (setFlip b s).flip = b := rfl
@[simp] theorem setFlip_bright (b : Bool) (s : State) :
    (setFlip b s).bright = s.bright := rfl
@[simp] theorem setFlip_ackLast (b : Bool) (s : State) :
    (setFlip b s).ackLast = s.ackLast := rfl
@[simp] theorem setFlip_clkDrv (b : Bool) (s : State) :
    (setFlip b s).clkDrv = s.clkDrv := rfl
@[simp] theorem setFlip_dioDrv (b : Bool) (s : State) :
    (setFlip b s).dioDrv = s.dioDrv := rfl
@[simp] theorem setFlip_tr (b : Bool) (s : State) :
    (setFlip b s).tr = s.tr := rfl
@[simp] theorem setFlip_stopped (b : Bool) (s : State) :
    (setFlip b s).stopped = s.stopped := rfl
@[simp] theorem setFlip_resps (b : Bool) (s : State) :
    (setFlip b s).resps = s.resps := rfl
@[simp] theorem setFlip_cmds (b : Bool) (s : State) :
    (setFlip b s).cmds = s.cmds := rfl
@[simp] theorem setFlip_dioIn (b : Bool) (s : State) :
    (setFlip b s).dioIn = s.dioIn := rfl
@[simp] theorem setFlip_draws (b : Bool) (s : State) :
    (setFlip b s).draws = s.draws := rfl

/-! setBright -/

@[simp] theorem setBright_cfg (v : BitVec 4) (s : State) :
    (setBright v s).cfg = s.cfg := rfl
@[simp] theorem setBright_bitDelay (v : BitVec 4) (s : State) :
    (setBright v s).bitDelay = s.bitDelay := rfl
@[simp] theorem setBright_live (v : BitVec 4) (s : State) :
    (setBright v s).live = s.live := rfl
@[simp] theorem setBright_scr (v : BitVec 4) (s : State) :
    (setBright v s).scr = s.scr := rfl
@[simp] theorem setBright_flip (v : BitVec 4) (s : State) :
    (setBright v s).flip = s.flip := rfl
@[simp] theorem setBright_bright (v : BitVec 4) (s : State) :
    (setBright v s).bright = v := rfl
@[simp] theorem setBright_ackLast (v : BitVec 4) (s : State) :
    (setBright v s).ackLast = s.ackLast := rfl
@[simp] theorem setBright_clkDrv (v : BitVec 4) (s : State) :
    (setBright v s).clkDrv = s.clkDrv := rfl
@[simp] theorem setBright_dioDrv (v : BitVec 4) (s : State) :
    (setBright v s).dioDrv = s.dioDrv := rfl
@[simp] theorem setBright_tr (v : BitVec 4) (s : State) :
    (setBright v s).tr = s.tr := rfl
@[simp] theorem setBright_stopped (v : BitVec 4) (s : State) :
    (setBright v s).stopped = s.stopped := rfl
@[simp] theorem setBright_resps (v : BitVec 4) (s : State) :
    (setBright v s).resps = s.resps := rfl
@[simp] theorem setBright_cmds (v : BitVec 4) (s : State) :
    (setBright v s).cmds = s.cmds := rfl
@[simp] theorem setBright_dioIn (v : BitVec 4) (s : State) :
    (setBright v s).dioIn = s.dioIn := rfl
@[simp] theorem setBright_draws (v : BitVec 4) (s : State) :
    (setBright v s).draws = s.draws := rfl

/-! respond -/

@[simp] theorem respond_cfg (r : Response) (s : State) :
    (respond r s).cfg = s.cfg := rfl
@[simp] theorem respond_bitDelay (r : Response) (s : State) :
    (respond r s).bitDelay = s.bitDelay := rfl
@[simp] theorem respond_live (r : Response) (s : State) :
    (respond r s).live = s.live := rfl
@[simp] theorem respond_scr (r : Response) (s : State) :
    (respond r s).scr = s.scr := rfl
@[simp] theorem respond_flip (r : Response) (s : State) :
    (respond r s).flip = s.flip := rfl
@[simp] theorem respond_bright (r : Response) (s : State) :
    (respond r s).bright = s.bright := rfl
@[simp] theorem respond_ackLast (r : Response) (s : State) :
    (respond r s).ackLast = s.ackLast := rfl
@[simp] theorem respond_clkDrv (r : Response) (s : State) :
    (respond r s).clkDrv = s.clkDrv := rfl
@[simp] theorem respond_dioDrv (r : Response) (s : State) :
    (respond r s).dioDrv = s.dioDrv := rfl
@[simp] theorem respond_tr (r : Response) (s : State) :
    (respond r s).tr = s.tr := rfl
@[simp] theorem respond_stopped (r : Response) (s : State) :
    (respond r s).stopped = s.stopped := rfl
@[simp] theorem respond_resps (r : Response) (s : State) :
    (respond r s).resps = s.resps ++ [r] := rfl
@[simp] theorem respond_cmds (r : Response) (s : State) :
    (respond r s).cmds = s.cmds := rfl
@[simp] theorem respond_dioIn (r : Response) (s : State) :
    (respond r s).dioIn = s.dioIn := rfl
@[simp] theorem respond_draws (r : Response) (s : State) :
    (respond r s).draws = s.draws := rfl

/-! emit -/

@[simp] theorem emit_cfg (e : Event) (s : State) :
    (emit e s).cfg = s.cfg := rfl
@[simp] theorem emit_bitDelay (e : Event) (s : State) :
    (emit e s).bitDelay = s.bitDelay := rfl
@[simp] theorem emit_live (e : Event) (s : State) :
    (emit e s).live = s.live := rfl
@[simp] theorem emit_scr (e : Event) (s : State) :
    (emit e s).scr = s.scr := rfl
@[simp] theorem emit_flip (e : Event) (s : State) :
    (emit e s).flip = s.flip := rfl
@[simp] theorem emit_bright (e : Event) (s : State) :
    (emit e s).bright = s.bright := rfl
@[simp] theorem emit_ackLast (e : Event) (s : State) :
    (emit e s).ackLast = s.ackLast := rfl
@[simp] theorem emit_clkDrv (e : Event) (s : State) :
    (emit e s).clkDrv = clkAfter e s.clkDrv := rfl
@[simp] theorem emit_dioDrv (e : Event) (s : State) :
    (emit e s).dioDrv = dioAfter e s.dioDrv := rfl
@[simp] theorem emit_tr (e : Event) (s : State) :
    (emit e s).tr = s.tr ++ [e] := rfl
@[simp] theorem emit_stopped (e : Event) (s : State) :
    (emit e s).stopped = s.stopped := rfl
@[simp] theorem emit_resps (e : Event) (s : State) :
    (emit e s).resps = s.resps := rfl
@[simp] theorem emit_cmds (e : Event) (s : State) :
    (emit e s).cmds = s.cmds := rfl
@[simp] theorem emit_dioIn (e : Event) (s : State) :
    (emit e s).dioIn = s.dioIn := rfl
@[simp] theorem emit_draws (e : Event) (s : State) :
    (emit e s).draws = s.draws := rfl

/-! setAck -/

@[simp] theorem setAck_cfg (b : Bool) (s : State) :
    (setAck b s).cfg = s.cfg := rfl
@[simp] theorem setAck_bitDelay (b : Bool) (s : State) :
    (setAck b s).bitDelay = s.bitDelay := rfl
@[simp] theorem setAck_live (b : Bool) (s : State) :
    (setAck b s).live = s.live := rfl
@[simp] theorem setAck_scr (b : Bool) (s : State) :
    (setAck b s).scr = s.scr := rfl
@[simp] theorem setAck_flip (b : Bool) (s : State) :
    (setAck b s).flip = s.flip := rfl
@[simp] theorem setAck_bright (b : Bool) (s : State) :
    (setAck b s).bright = s.bright := rfl
@[simp] theorem setAck_ackLast (b : Bool) (s : State) :
    (setAck b s).ackLast = b := rfl
@[simp] theorem setAck_clkDrv (b : Bool) (s : State) :
    (setAck b s).clkDrv = s.clkDrv := rfl
@[simp] theorem setAck_dioDrv (b : Bool) (s : State) :
    (setAck b s).dioDrv = s.dioDrv := rfl
@[simp] theorem setAck_tr (b : Bool) (s : State) :
    (setAck b s).tr = s.tr := rfl
@[simp] theorem setAck_stopped (b : Bool) (s : State) :
    (setAck b s).stopped = s.stopped := rfl
@[simp] theorem setAck_resps (b : Bool) (s : State) :
    (setAck b s).resps = s.resps := rfl
@[simp] theorem setAck_cmds (b : Bool) (s : State) :
    (setAck b s).cmds = s.cmds := rfl
@[simp] theorem setAck_dioIn (b : Bool) (s : State) :
    (setAck b s).dioIn = s.dioIn := rfl
@[simp] theorem setAck_draws (b : Bool) (s : State) :
    (setAck b s).draws = s.draws := rfl

/-! raiseFault -/

@[simp] theorem raiseFault_cfg (r : Fault) (w : Word) (s : State) :
    (raiseFault r w s).cfg = s.cfg := rfl
@[simp] theorem raiseFault_bitDelay (r : Fault) (w : Word) (s : State) :
    (raiseFault r w s).bitDelay = s.bitDelay := rfl
@[simp] theorem raiseFault_live (r : Fault) (w : Word) (s : State) :
    (raiseFault r w s).live = s.live := rfl
@[simp] theorem raiseFault_scr (r : Fault) (w : Word) (s : State) :
    (raiseFault r w s).scr = s.scr := rfl
@[simp] theorem raiseFault_flip (r : Fault) (w : Word) (s : State) :
    (raiseFault r w s).flip = s.flip := rfl
@[simp] theorem raiseFault_bright (r : Fault) (w : Word) (s : State) :
    (raiseFault r w s).bright = s.bright := rfl
@[simp] theorem raiseFault_ackLast (r : Fault) (w : Word) (s : State) :
    (raiseFault r w s).ackLast = s.ackLast := rfl
@[simp] theorem raiseFault_clkDrv (r : Fault) (w : Word) (s : State) :
    (raiseFault r w s).clkDrv = s.clkDrv := rfl
@[simp] theorem raiseFault_dioDrv (r : Fault) (w : Word) (s : State) :
    (raiseFault r w s).dioDrv = s.dioDrv := rfl
@[simp] theorem raiseFault_tr (r : Fault) (w : Word) (s : State) :
    (raiseFault r w s).tr = s.tr := rfl
@[simp] theorem raiseFault_stopped (r : Fault) (w : Word) (s : State) :
    (raiseFault r w s).stopped = some ⟨r, w⟩ := rfl
@[simp] theorem raiseFault_resps (r : Fault) (w : Word) (s : State) :
    (raiseFault r w s).resps = s.resps := rfl
@[simp] theorem raiseFault_cmds (r : Fault) (w : Word) (s : State) :
    (raiseFault r w s).cmds = s.cmds := rfl
@[simp] theorem raiseFault_dioIn (r : Fault) (w : Word) (s : State) :
    (raiseFault r w s).dioIn = s.dioIn := rfl
@[simp] theorem raiseFault_draws (r : Fault) (w : Word) (s : State) :
    (raiseFault r w s).draws = s.draws := rfl

/-! useAnswer: it changes only `dioIn` and `draws`. -/

@[simp] theorem useAnswer_cfg (s : State) : (useAnswer s).cfg = s.cfg := by
  unfold useAnswer; split <;> rfl
@[simp] theorem useAnswer_bitDelay (s : State) : (useAnswer s).bitDelay = s.bitDelay := by
  unfold useAnswer; split <;> rfl
@[simp] theorem useAnswer_live (s : State) : (useAnswer s).live = s.live := by
  unfold useAnswer; split <;> rfl
@[simp] theorem useAnswer_scr (s : State) : (useAnswer s).scr = s.scr := by
  unfold useAnswer; split <;> rfl
@[simp] theorem useAnswer_flip (s : State) : (useAnswer s).flip = s.flip := by
  unfold useAnswer; split <;> rfl
@[simp] theorem useAnswer_bright (s : State) : (useAnswer s).bright = s.bright := by
  unfold useAnswer; split <;> rfl
@[simp] theorem useAnswer_ackLast (s : State) : (useAnswer s).ackLast = s.ackLast := by
  unfold useAnswer; split <;> rfl
@[simp] theorem useAnswer_clkDrv (s : State) : (useAnswer s).clkDrv = s.clkDrv := by
  unfold useAnswer; split <;> rfl
@[simp] theorem useAnswer_dioDrv (s : State) : (useAnswer s).dioDrv = s.dioDrv := by
  unfold useAnswer; split <;> rfl
@[simp] theorem useAnswer_tr (s : State) : (useAnswer s).tr = s.tr := by
  unfold useAnswer; split <;> rfl
@[simp] theorem useAnswer_stopped (s : State) : (useAnswer s).stopped = s.stopped := by
  unfold useAnswer; split <;> rfl
@[simp] theorem useAnswer_resps (s : State) : (useAnswer s).resps = s.resps := by
  unfold useAnswer; split <;> rfl
@[simp] theorem useAnswer_cmds (s : State) : (useAnswer s).cmds = s.cmds := by
  unfold useAnswer; split <;> rfl

@[simp] theorem useAnswer_dioIn (s : State) : (useAnswer s).dioIn = s.dioIn.drop 1 := by
  unfold useAnswer; split <;> simp_all

@[simp] theorem useAnswer_draws (s : State) : (useAnswer s).draws = s.draws + (1 - s.dioIn.length) := by
  unfold useAnswer; split <;> simp_all

/-! The fixed fields of a fresh block (10_state.md R38). -/

@[simp] theorem construct_live_length (c : Config) (v : BitVec 4) (l r : Nat → Byte) (b : Bool) (a : ConstructArgs) :
    (State.construct c v l r b a).live.length = c.width.count := by simp [State.construct]

@[simp] theorem construct_scr_length (c : Config) (v : BitVec 4) (l r : Nat → Byte) (b : Bool) (a : ConstructArgs) :
    (State.construct c v l r b a).scr.length = c.width.count := by simp [State.construct]

end Sys2Proof.Machine
end

