-- ==== Sys2Proof/Laws/Ops.lean ====
section
/-! SUPPORT. One lemma per shared operation over the buffers, the events and the samples: everything it does. -/

namespace Sys2Proof.Machine

/-! Events. -/

/-- Several events: the drive bits of the last event of each pin, and the events at the end of TR. -/
theorem emitAll_eq (es : List Event) (s : State) :
    emitAll es s = { s with
      clkDrv := es.foldl (fun d e => clkAfter e d) s.clkDrv
      dioDrv := es.foldl (fun d e => dioAfter e d) s.dioDrv
      tr := s.tr ++ es } := by
  induction es generalizing s with
  | nil => simp [emitAll]
  | cons e es ih =>
    have h : emitAll (e :: es) s = emitAll es (emit e s) := rfl
    rw [h, ih]
    simp [emit]

/-! Samples. -/

theorem nextLevel_eq_answer (s : State) : nextLevel s = s.answer 0 := by
  unfold nextLevel State.answer
  cases h : s.dioIn <;> simp

theorem answer_useAnswer (s : State) (k : Nat) : (useAnswer s).answer k = s.answer (k + 1) := by
  unfold useAnswer State.answer
  cases h : s.dioIn with
  | nil => simp [Nat.add_comm, Nat.add_left_comm]
  | cons a rest => simp

/-- What the samples to come are depends on `dioIn` and `draws` alone. -/
theorem answer_congr {s t : State} (h1 : t.dioIn = s.dioIn) (h2 : t.draws = s.draws) : t.answer = s.answer := by
  funext k
  simp [State.answer, h1, h2]

/-- After `n` answers are used up, the samples to come are the old ones from number `n` on. -/
theorem answer_drop (s : State) (n k : Nat) :
    State.answer { s with dioIn := s.dioIn.drop n, draws := s.draws + (n - s.dioIn.length) } k = s.answer (k + n) := by
  unfold State.answer
  simp only [List.getElem?_drop, List.length_drop, Nat.add_comm n k]
  by_cases h : k + n < s.dioIn.length
  · simp [List.getElem?_eq_getElem h]
  · rw [List.getElem?_eq_none (by omega)]
    dsimp only
    congr 1
    omega

/-! Buffers. -/

/-- A fold of writes into LIVE changes LIVE alone, and keeps its length. -/
theorem foldl_writeLive_eq (ks : List Nat) (f : Nat → Nat) (v : State → Nat → Byte)
    (hv : ∀ (t : State) (l : List Byte) k, v { t with live := l } k = v t k) (s : State) :
    ∃ l : List Byte, l.length = s.live.length ∧
      ks.foldl (fun t k => writeLive (f k) (v t k) t) s = { s with live := l } ∧
      l = ks.foldl (fun m k => m.set (f k) (v s k)) s.live := by
  induction ks generalizing s with
  | nil => exact ⟨s.live, rfl, rfl, rfl⟩
  | cons k ks ih =>
    obtain ⟨l, h1, h2, h3⟩ := ih (writeLive (f k) (v s k) s)
    refine ⟨l, by simpa using h1, ?_, ?_⟩
    · rw [List.foldl_cons, h2]
      rfl
    · rw [h3, List.foldl_cons]
      have hvs : ∀ j, v (writeLive (f k) (v s k) s) j = v s j := fun j => hv s _ j
      simp only [hvs, writeLive_live]

/-- COMMIT's copy changes LIVE alone: in order, entry pos + j becomes SCR[j]. -/
theorem copyScratch_eq (len pos : Nat) (s : State) :
    copyScratch len pos s =
      { s with live := (List.range len).foldl (fun m j => m.set (pos + j) (readScr s j)) s.live } := by
  obtain ⟨l, -, h2, h3⟩ :=
    foldl_writeLive_eq (List.range len) (pos + ·) readScr (fun _ _ _ => rfl) s
  rw [← h3]
  exact h2

/-- CLR's clearing changes LIVE alone: in order, entries 0 to N − 1 become 0. -/
theorem clearLive_eq (s : State) :
    clearLive s = { s with live := (List.range s.width).foldl (fun m k => m.set k 0x00#8) s.live } := by
  obtain ⟨l, -, h2, h3⟩ :=
    foldl_writeLive_eq (List.range s.width) id (fun _ _ => 0x00#8) (fun _ _ _ => rfl) s
  rw [← show l = (List.range s.width).foldl (fun m k => m.set k 0x00#8) s.live from h3]
  exact h2

/-- A fold of `set` keeps the length. -/
theorem length_foldl_set (ks : List Nat) (f : Nat → Nat) (v : Nat → Byte) (l : List Byte) :
    (ks.foldl (fun m k => m.set (f k) (v k)) l).length = l.length := by
  induction ks generalizing l with
  | nil => rfl
  | cons k ks ih => rw [List.foldl_cons, ih, List.length_set]

/-- Entry by entry, what setting `pos .. pos + len − 1` leaves. -/
theorem getElem?_foldl_set (len pos : Nat) (v : Nat → Byte) (l : List Byte) (k : Nat) :
    ((List.range len).foldl (fun m j => m.set (pos + j) (v j)) l)[k]? =
      if pos ≤ k ∧ k < pos + len ∧ k < l.length then some (v (k - pos)) else l[k]? := by
  induction len with
  | zero => simp; omega
  | succ n ih =>
    rw [List.range_succ, List.foldl_append]
    simp only [List.foldl_cons, List.foldl_nil]
    rw [List.getElem?_set]
    split
    · rename_i h
      subst h
      rw [length_foldl_set]
      split
      · rw [if_pos (by omega)]
        simp
      · rw [if_neg (by omega), List.getElem?_eq_none (by omega)]
    · rename_i h
      rw [ih]
      by_cases h1 : pos ≤ k ∧ k < pos + n ∧ k < l.length
      · rw [if_pos h1, if_pos (by omega)]
      · rw [if_neg h1, if_neg (by omega)]

/-- COMMIT's copy on exact buffers: the first `len` scratch entries in place of entries pos to pos + len − 1. -/
theorem copyScratch_exact {s : State} (h : BuffersExact s) {len pos : Nat} (hp : pos + len ≤ s.width) :
    copyScratch len pos s =
      { s with live := s.live.take pos ++ s.scr.take len ++ s.live.drop (pos + len) } := by
  obtain ⟨hl, hs⟩ := h
  rw [copyScratch_eq]
  congr 1
  apply List.ext_getElem?
  intro k
  rw [getElem?_foldl_set]
  have e1 : (s.live.take pos).length = pos := by simp; omega
  have e2 : (s.scr.take len).length = len := by simp; omega
  split
  · rw [List.append_assoc, List.getElem?_append_right (by omega), e1, List.getElem?_append_left (by omega),
      List.getElem?_take_of_lt (by omega)]
    have : k - pos < s.scr.length := by omega
    simp [readScr, this]
  · rename_i hk
    by_cases hkp : k < pos
    · rw [List.append_assoc, List.getElem?_append_left (by omega), List.getElem?_take_of_lt hkp]
    · rw [List.getElem?_append_right (by simp; omega)]
      simp only [List.length_append, e1, e2, List.getElem?_drop]
      by_cases hkl : k < s.live.length
      · congr 1
        omega
      · rw [List.getElem?_eq_none (by omega), List.getElem?_eq_none (by omega)]

/-- CLR's clearing on an exact buffer. -/
theorem clearLive_exact {s : State} (h : s.live.length = s.width) :
    clearLive s = { s with live := List.replicate s.width 0x00#8 } := by
  rw [clearLive_eq]
  congr 1
  apply List.ext_getElem?
  intro k
  have := getElem?_foldl_set s.width 0 (fun _ => 0x00#8) s.live k
  simp only [Nat.zero_add] at this
  rw [this, List.getElem?_replicate]
  by_cases hk : k < s.width
  · rw [if_pos (by omega), if_pos hk]
  · rw [if_neg (by omega), if_neg hk, List.getElem?_eq_none (by omega)]

/-! Taking a command. -/

theorem fetch_stopped {s : State} {st : Stop} (h : s.stopped = some st) : fetch s = .stopped st.reason := by
  simp [fetch, h]

theorem fetch_idle {s : State} (h : Running s) (hc : s.cmds = []) : fetch s = .idle := by
  simp [fetch, h, hc]

theorem fetch_command {s : State} (h : Running s) {w : Word} {rest : List Word} (hc : s.cmds = w :: rest) :
    fetch s = .command w { s with cmds := rest } := by
  simp [fetch, h, hc]

end Sys2Proof.Machine
end

