-- ==== Sys2Proof/Laws/Wire.lean ====
section
/-! SUPPORT. One lemma per primitive of the framer and one for the flush: everything it does, as one record update over
the trace written out in Safety.lean. -/

namespace Sys2Proof.Machine

theorem startCond_eq (s : State) :
    startCond s = { s with dioDrv := true, tr := s.tr ++ [.dioLo, .wait] } := by
  simp [startCond, emitAll_eq, clkAfter, dioAfter]

theorem stopCond_eq (s : State) :
    stopCond s = { s with
      clkDrv := false, dioDrv := false, tr := s.tr ++ [.dioLo, .wait, .clkRel, .wait, .dioRel, .wait] } := by
  simp [stopCond, emitAll_eq, clkAfter, dioAfter]

theorem sendBit_eq (bit : Bool) (s : State) :
    sendBit bit s = { s with clkDrv := false, dioDrv := !bit, tr := s.tr ++ slotEvents bit } := by
  cases bit <;> simp [sendBit, emitAll_eq, slotEvents, clkAfter, dioAfter]

theorem sendBits_eq (b : Byte) (s : State) :
    sendBits b s = { s with
      clkDrv := false
      dioDrv := !b.getLsbD 7
      tr := s.tr ++ (slotEvents (b.getLsbD 0) ++ slotEvents (b.getLsbD 1) ++ slotEvents (b.getLsbD 2) ++
        slotEvents (b.getLsbD 3) ++ slotEvents (b.getLsbD 4) ++ slotEvents (b.getLsbD 5) ++
        slotEvents (b.getLsbD 6) ++ slotEvents (b.getLsbD 7)) } := by
  have hr : List.range 8 = [0, 1, 2, 3, 4, 5, 6, 7] := rfl
  simp only [sendBits, hr, List.foldl_cons, List.foldl_nil, sendBit_eq, List.append_assoc]

/-- Whether the acknowledgement phase ends with DIO driven low. -/
theorem drivesAfter_eq (p : AckDrivePolicy) (a : Level) :
    drivesAfter p a = decide ((p = .onNack ∧ a = .high) ∨ (p = .onAck ∧ a = .low)) := by
  cases p <;> cases a <;> rfl

theorem acked_eq (a : Level) : acked a = (a == .low) := by cases a <;> rfl

theorem ackPhase_eq (s : State) :
    ackPhase s = { s with
      clkDrv := true
      dioDrv := drivesAfter s.cfg.ackDrivePolicy (s.answer 0)
      tr := s.tr ++ ackEvents s.cfg.ackDrivePolicy (s.answer 0)
      ackLast := s.answer 0 == .low
      dioIn := s.dioIn.drop 1
      draws := s.draws + (1 - s.dioIn.length) } := by
  have key : ∀ (t : State) (d : Bool), emitAll [.wait, .clkLo, .wait] (if d then emit .dioLo t else t) =
      { t with
        clkDrv := true
        dioDrv := d || t.dioDrv
        tr := t.tr ++ ((if d then [.dioLo] else []) ++ [.wait, .clkLo, .wait]) } := by
    intro t d
    cases d <;> simp [emitAll_eq, emit, clkAfter, dioAfter]
  have hu : ∀ t : State, useAnswer t =
      { t with dioIn := t.dioIn.drop 1, draws := t.draws + (1 - t.dioIn.length) } := by
    intro t
    unfold useAnswer
    cases t.dioIn <;> simp
  unfold ackPhase
  simp only [key, nextLevel_eq_answer]
  rw [emitAll_eq]
  simp only [sampleAck, nextLevel_eq_answer, hu, setAck, emit, ackEvents, acked_eq, clkAfter, dioAfter]
  have ha : ∀ c d tr, State.answer { s with clkDrv := c, dioDrv := d, tr := tr } 0 = s.answer 0 := fun _ _ _ => rfl
  simp only [ha, drivesAfter_eq, decide_eq_true_eq, List.append_assoc]
  simp

/-- WriteByte (42_framer.md R126): one byte's events, ACK_LAST from one sample, CLK driven at the end. -/
theorem writeByte_eq (b : Byte) (s : State) :
    writeByte b s = { s with
      clkDrv := true
      dioDrv := drivesAfter s.cfg.ackDrivePolicy (s.answer 0)
      tr := s.tr ++ byteEvents s.cfg.ackDrivePolicy b (s.answer 0)
      ackLast := s.answer 0 == .low
      dioIn := s.dioIn.drop 1
      draws := s.draws + (1 - s.dioIn.length) } := by
  have ha : ∀ c d tr, State.answer { s with clkDrv := c, dioDrv := d, tr := tr } 0 = s.answer 0 := fun _ _ _ => rfl
  rw [writeByte, sendBits_eq, ackPhase_eq]
  simp only [ha, byteEvents, List.append_assoc]

/-- The numbering of the samples can start anywhere. -/
theorem bytesEvents_shift (p : AckDrivePolicy) (f : Nat → Level) (n k : Nat) (bs : List Byte) :
    bytesEvents p (fun j => f (j + n)) k bs = bytesEvents p f (k + n) bs := by
  induction bs generalizing k with
  | nil => rfl
  | cons b bs ih =>
    simp only [bytesEvents, ih]
    rw [Nat.add_right_comm]

/-- Several bytes: each with its own sample; the drive bits at the end are some booleans. -/
theorem writeBytes_eq (bs : List Byte) (s : State) :
    ∃ c d, writeBytes bs s = { s with
      clkDrv := c
      dioDrv := d
      tr := s.tr ++ bytesEvents s.cfg.ackDrivePolicy s.answer 0 bs
      ackLast := if bs = [] then s.ackLast else s.answer (bs.length - 1) == .low
      dioIn := s.dioIn.drop bs.length
      draws := s.draws + (bs.length - s.dioIn.length) } := by
  induction bs generalizing s with
  | nil => exact ⟨s.clkDrv, s.dioDrv, by simp [writeBytes, bytesEvents]⟩
  | cons b bs ih =>
    obtain ⟨c, d, h⟩ := ih (writeByte b s)
    have ha : (writeByte b s).answer = fun j => s.answer (j + 1) := by
      funext k
      rw [← answer_drop]
      exact congrFun (answer_congr (by rw [writeByte_eq]) (by rw [writeByte_eq])) k
    refine ⟨c, d, ?_⟩
    have hb : writeBytes (b :: bs) s = writeBytes bs (writeByte b s) := rfl
    rw [hb, h, ha, bytesEvents_shift]
    simp only [writeByte_eq, bytesEvents, List.length_cons, List.drop_drop, List.length_drop, List.append_assoc,
      Nat.zero_add, Nat.add_comm 1]
    congr 1
    · cases bs with
      | nil => simp
      | cons x xs => simp
    · omega

/-- One frame of at least one byte. -/
theorem sendFrame_eq (b : Byte) (bs : List Byte) (s : State) :
    sendFrame (b :: bs) s = { s with
      clkDrv := false
      dioDrv := false
      tr := s.tr ++ frameEvents s.cfg.ackDrivePolicy s.answer 0 (b :: bs)
      ackLast := s.answer bs.length == .low
      dioIn := s.dioIn.drop (bs.length + 1)
      draws := s.draws + (bs.length + 1 - s.dioIn.length) } := by
  obtain ⟨c, d, h⟩ := writeBytes_eq (b :: bs) (startCond s)
  have ha : (startCond s).answer = s.answer := by
    rw [startCond_eq]
    exact answer_congr rfl rfl
  rw [sendFrame, h, stopCond_eq, ha]
  simp [startCond_eq, frameEvents]

theorem frameEvents_shift (p : AckDrivePolicy) (f : Nat → Level) (n k : Nat) (bs : List Byte) :
    frameEvents p (fun j => f (j + n)) k bs = frameEvents p f (k + n) bs := by
  simp only [frameEvents, bytesEvents_shift]

@[simp] theorem wireData_length (s : State) : (wireData s).length = s.width := by simp [wireData]

/-- Flush (43_buffer.md R153): three frames, and nothing but what `flushed` lists. -/
theorem flush_eq (s : State) : flush s = flushed s := by
  have ha1 : (sendFrame [s.cfg.cmdSetData] s).answer = fun j => s.answer (j + 1) := by
    funext k
    rw [← answer_drop]
    exact congrFun (answer_congr (by rw [sendFrame_eq]; rfl) (by rw [sendFrame_eq]; rfl)) k
  have ha2 : ∀ d : List Byte, (sendFrame ((s.cfg.cmdSetAddr ||| 0x00#8) :: d)
      (sendFrame [s.cfg.cmdSetData] s)).answer = fun j => s.answer (j + (d.length + 2)) := by
    intro d
    funext k
    rw [← answer_drop]
    refine congrFun (answer_congr ?_ ?_) k <;> rw [sendFrame_eq, sendFrame_eq]
    · simp only [List.drop_drop, List.length_nil]
      congr 1
      omega
    · simp
      omega
  unfold flush
  dsimp only
  rw [sendFrame_eq, ha2]
  rw [frameEvents_shift, sendFrame_eq, ha1, frameEvents_shift, sendFrame_eq]
  simp only [flushed, flushEvents, displayByte, List.append_assoc, List.length_nil, List.drop_drop, List.length_drop,
    wireData_length, Nat.zero_add]
  congr 1
  · congr 1
    omega
  · omega

end Sys2Proof.Machine
end

