-- ==== Sys2Proof/Laws/Exec.lean ====
section
/-! SUPPORT. What a command and a step can do, said once: the shapes of the next state. -/

namespace Sys2Proof.Machine

/-- `s` after INIT's two release events (43_buffer.md R172). -/
theorem releaseLines_eq (s : State) :
    emitAll [.clkRel, .dioRel] s =
      { s with clkDrv := false, dioDrv := false, tr := s.tr ++ [.clkRel, .dioRel] } := by
  simp [emitAll_eq, clkAfter, dioAfter]

theorem copyScratch_live (len pos : Nat) (s : State) :
    ∃ l : List Byte, l.length = s.live.length ∧ copyScratch len pos s = { s with live := l } :=
  ⟨_, length_foldl_set _ _ _ _, copyScratch_eq len pos s⟩

theorem clearLive_live (s : State) :
    ∃ l : List Byte, l.length = s.live.length ∧ clearLive s = { s with live := l } :=
  ⟨_, length_foldl_set _ id _ _, clearLive_eq s⟩

/-- Every next state of a command has one of these shapes: one field written, a fault recorded, some events, or a flush
over a LIVE of the same length. -/
theorem exec_shape {i : Instr} {s t : State} (h : exec i s = .next t) :
    (∃ r, t = respond r s) ∨
    (∃ k v, t = writeScr k v s) ∨
    (∃ w, t = raiseFault .range w s) ∨
    (∃ b, t = setFlip b s) ∨
    (∃ v, t = setBright v s) ∨
    (∃ l : List Byte, l.length = s.live.length ∧ t = flushed { s with live := l }) ∨
    (∃ l : List Byte, l.length = s.live.length ∧
      t = flushed { s with clkDrv := false, dioDrv := false, tr := s.tr ++ [.clkRel, .dioRel], live := l }) ∨
    t = { s with clkDrv := false, dioDrv := false, tr := s.tr ++ [.clkRel, .dioRel] } ∨
    t = startCond s ∨
    t = stopCond s ∨
    (∃ b, t = respond (.bit (writeByte b s).ackLast) (writeByte b s)) := by
  cases i with
  | encd v => exact .inl ⟨_, (Host.Outcome.next.inj h).symm⟩
  | enca v => exact .inl ⟨_, (Host.Outcome.next.inj h).symm⟩
  | wscr pos code =>
    simp only [exec, execWscr] at h
    split at h
    · exact .inr (.inl ⟨_, _, (Host.Outcome.next.inj h).symm⟩)
    · exact .inr (.inr (.inl ⟨_, (Host.Outcome.next.inj h).symm⟩))
  | wseg pos code =>
    simp only [exec, execWseg, flush_eq] at h
    split at h
    · exact .inr (.inr (.inr (.inr (.inr (.inl ⟨_, by simp, (Host.Outcome.next.inj h).symm⟩)))))
    · exact .inr (.inr (.inl ⟨_, (Host.Outcome.next.inj h).symm⟩))
  | commit len pos =>
    obtain ⟨l, hl, hc⟩ := copyScratch_live len.toNat pos.toNat s
    simp only [exec, execCommit, flush_eq, hc] at h
    split at h
    · exact .inr (.inr (.inr (.inr (.inr (.inl ⟨l, hl, (Host.Outcome.next.inj h).symm⟩)))))
    · exact .inr (.inr (.inl ⟨_, (Host.Outcome.next.inj h).symm⟩))
  | clr =>
    obtain ⟨l, hl, hc⟩ := clearLive_live s
    simp only [exec, execClr, flush_eq, hc] at h
    exact .inr (.inr (.inr (.inr (.inr (.inl ⟨l, hl, (Host.Outcome.next.inj h).symm⟩)))))
  | rdbuf => exact .inl ⟨_, (Host.Outcome.next.inj h).symm⟩
  | sflip b => exact .inr (.inr (.inr (.inl ⟨_, (Host.Outcome.next.inj h).symm⟩)))
  | gflip => exact .inl ⟨_, (Host.Outcome.next.inj h).symm⟩
  | sbrt level on => exact .inr (.inr (.inr (.inr (.inl ⟨_, (Host.Outcome.next.inj h).symm⟩))))
  | init clr =>
    cases clr with
    | false =>
      simp only [exec, execInit, releaseLines_eq] at h
      exact .inr (.inr (.inr (.inr (.inr (.inr (.inr (.inl (Host.Outcome.next.inj h).symm)))))))
    | true =>
      obtain ⟨l, hl, hc⟩ := clearLive_live (emitAll [.clkRel, .dioRel] s)
      simp only [exec, execInit, flush_eq, hc, if_true] at h
      simp only [releaseLines_eq] at h hl
      exact .inr (.inr (.inr (.inr (.inr (.inr (.inl ⟨l, hl, (Host.Outcome.next.inj h).symm⟩))))))
  | bstart => exact .inr (.inr (.inr (.inr (.inr (.inr (.inr (.inr (.inl (Host.Outcome.next.inj h).symm))))))))
  | bstop => exact .inr (.inr (.inr (.inr (.inr (.inr (.inr (.inr (.inr (.inl (Host.Outcome.next.inj h).symm)))))))))
  | bwrite b =>
    exact .inr (.inr (.inr (.inr (.inr (.inr (.inr (.inr (.inr (.inr ⟨b, (Host.Outcome.next.inj h).symm⟩)))))))))

/-- Every next state of a step: the block waited, or took one word and ran the command it spells, or took one word that
spells no command. -/
theorem step_shape {s t : State} (h : step s = .next t) :
    Running s ∧
    ((s.cmds = [] ∧ t = s) ∨
      ∃ w rest, s.cmds = w :: rest ∧
        ((∃ i, decode w = .instr i ∧ exec i { s with cmds := rest } = .next t) ∨
          ((∀ i, decode w ≠ .instr i) ∧ t = raiseFault .illegalCommand w { s with cmds := rest }))) := by
  unfold step at h
  have hs : Running s := by
    cases hs : s.stopped with
    | none => exact hs
    | some st =>
      rw [fetch_stopped hs] at h
      cases h
  refine ⟨hs, ?_⟩
  rcases hc : s.cmds with _ | ⟨w, rest⟩
  · rw [fetch_idle hs hc] at h
    exact .inl ⟨rfl, (Host.Outcome.next.inj h).symm⟩
  · rw [fetch_command hs hc] at h
    refine .inr ⟨w, rest, rfl, ?_⟩
    dsimp only at h
    cases hd : decode w with
    | instr i =>
      rw [hd] at h
      exact .inl ⟨i, rfl, h⟩
    | reservedOpcode =>
      rw [hd] at h
      exact .inr ⟨fun i => by simp, (Host.Outcome.next.inj h).symm⟩
    | reservedBits =>
      rw [hd] at h
      exact .inr ⟨fun i => by simp, (Host.Outcome.next.inj h).symm⟩

end Sys2Proof.Machine
end

