-- ==== Sys2Proof/Laws/Trace.lean ====
section
/-! SUPPORT. Facts about the written-out traces of Safety.lean: sizes, counts, the pins they leave and where their samples
fall. -/

namespace Sys2Proof.Machine

/-! The pins a trace leaves. -/

theorem drivenBy_append (lo rel : Event) (xs ys : List Event) :
    drivenBy lo rel (xs ++ ys) =
      ys.foldl (fun d e => if e = lo then true else if e = rel then false else d) (drivenBy lo rel xs) := by
  simp [drivenBy, List.foldl_append]

theorem clk_after_stop (xs : List Event) :
    drivenBy .clkLo .clkRel (xs ++ [.dioLo, .wait, .clkRel, .wait, .dioRel, .wait]) = false := by
  rw [drivenBy_append]; simp

theorem dio_after_stop (xs : List Event) :
    drivenBy .dioLo .dioRel (xs ++ [.dioLo, .wait, .clkRel, .wait, .dioRel, .wait]) = false := by
  rw [drivenBy_append]; simp

theorem clk_after_byte (xs : List Event) (p : AckDrivePolicy) (b : Byte) (a : Level) :
    drivenBy .clkLo .clkRel (xs ++ byteEvents p b a) = true := by
  rw [byteEvents, ← List.append_assoc, drivenBy_append]
  cases p <;> cases a <;> simp [ackEvents]

theorem dio_after_byte (xs : List Event) (p : AckDrivePolicy) (b : Byte) (a : Level) :
    drivenBy .dioLo .dioRel (xs ++ byteEvents p b a) = drivesAfter p a := by
  rw [byteEvents, ← List.append_assoc, drivenBy_append]
  cases p <;> cases a <;> simp [ackEvents, drivesAfter]

/-! The last sample of a trace. -/

theorem foldl_sampleAfter (ys : List Event) (m l : Option Level) :
    ys.foldl sampleAfter (m.or l) = (ys.foldl sampleAfter m).or l := by
  induction ys generalizing m with
  | nil => rfl
  | cons e ys ih =>
    cases e <;> simp only [List.foldl_cons, sampleAfter] <;> first | exact ih m | exact ih (some _)

theorem lastSample_append (xs ys : List Event) :
    lastSample (xs ++ ys) = (lastSample ys).or (lastSample xs) := by
  simpa [lastSample, List.foldl_append] using foldl_sampleAfter ys none (xs.foldl sampleAfter none)

theorem lastSample_byteEvents (p : AckDrivePolicy) (b : Byte) (a : Level) :
    lastSample (byteEvents p b a) = some a := by
  rw [byteEvents, lastSample_append]
  cases p <;> cases a <;> rfl

/-! Sizes and counts. -/

theorem length_ackEvents (p : AckDrivePolicy) (a : Level) :
    (ackEvents p a).length = 9 + drivesIn p [.sample a] := by
  cases p <;> cases a <;> rfl

theorem length_byteEvents (p : AckDrivePolicy) (b : Byte) (a : Level) :
    (byteEvents p b a).length = 49 + drivesIn p [.sample a] := by
  simp only [byteEvents, List.length_append, length_ackEvents, slotEvents, List.length_cons, List.length_nil]
  omega

theorem count_slotEvents {e : Event} (bit : Bool) (h1 : e ≠ .dioLo) (h2 : e ≠ .dioRel) :
    (slotEvents bit).count e = [Event.clkLo, .wait, .clkRel, .wait].count e := by
  cases bit <;> cases e <;> first | rfl | exact absurd rfl h1 | exact absurd rfl h2

theorem count_wait_byteEvents (p : AckDrivePolicy) (b : Byte) (a : Level) :
    (byteEvents p b a).count .wait = 20 := by
  simp only [byteEvents, List.count_append, count_slotEvents, ne_eq, reduceCtorEq, not_false_eq_true]
  cases p <;> cases a <;> rfl

theorem count_sample_byteEvents (p : AckDrivePolicy) (b : Byte) (a c : Level) :
    (byteEvents p b a).count (.sample c) = if a = c then 1 else 0 := by
  simp only [byteEvents, List.count_append, count_slotEvents, ne_eq, reduceCtorEq, not_false_eq_true]
  cases p <;> cases a <;> cases c <;> rfl

theorem drivesIn_append (p : AckDrivePolicy) (xs ys : List Event) :
    drivesIn p (xs ++ ys) = drivesIn p xs + drivesIn p ys := by
  cases p <;> simp [drivesIn, List.count_append]

/-! Where the samples fall. -/

/-- Every sample of a trace falls while DIO is released, DIO starting driven or not. -/
def samplesOk : Bool → List Event → Bool
  | _, [] => true
  | d, .clkLo :: es => samplesOk d es
  | d, .clkRel :: es => samplesOk d es
  | _, .dioLo :: es => samplesOk true es
  | _, .dioRel :: es => samplesOk false es
  | d, .wait :: es => samplesOk d es
  | d, .sample _ :: es => !d && samplesOk d es

theorem samplesOk_append (d : Bool) (xs ys : List Event) :
    samplesOk d (xs ++ ys) = (samplesOk d xs &&
      samplesOk (xs.foldl (fun d e => if e = .dioLo then true else if e = .dioRel then false else d) d) ys) := by
  induction xs generalizing d with
  | nil => simp [samplesOk]
  | cons e xs ih => cases e <;> simp [samplesOk, ih, Bool.and_assoc]

theorem samplesReleased_iff (es : List Event) : SamplesReleased es ↔ samplesOk false es = true := by
  constructor
  · intro h
    suffices ∀ (pre post : List Event), es = pre ++ post →
        samplesOk (drivenBy .dioLo .dioRel pre) post = true by simpa [drivenBy] using this [] es rfl
    intro pre post
    induction post generalizing pre with
    | nil => intro _; rfl
    | cons e post ih =>
      intro he
      have ih' := ih (pre ++ [e]) (by simp [he])
      rw [drivenBy_append] at ih'
      cases e <;> simp [samplesOk] at ih' ⊢ <;> try exact ih'
      exact ⟨h pre _ post he, ih'⟩
  · intro h pre a post he
    rw [he, samplesOk_append] at h
    have h2 := (Bool.and_eq_true _ _ ▸ h).2
    simp only [samplesOk, Bool.and_eq_true, Bool.not_eq_true'] at h2
    exact h2.1

theorem samplesOk_slotEvents (d bit : Bool) (es : List Event) :
    samplesOk d (slotEvents bit ++ es) = samplesOk (!bit) es := by
  cases bit <;> simp [slotEvents, samplesOk]

theorem samplesOk_byteEvents (d : Bool) (p : AckDrivePolicy) (b : Byte) (a : Level) (es : List Event) :
    samplesOk d (byteEvents p b a ++ es) = samplesOk (drivesAfter p a) es := by
  simp only [byteEvents, List.append_assoc, samplesOk_slotEvents]
  cases p <;> cases a <;> rfl

/-! Traces without the acknowledgements. -/

theorem stripAck_slotEvents (bit : Bool) (es : List Event) :
    stripAck (slotEvents bit ++ es) = slotEvents bit ++ stripAck es := by
  cases bit <;> simp [slotEvents, stripAck]

theorem stripAck_ackEvents (p : AckDrivePolicy) (a : Level) (es : List Event) :
    stripAck (ackEvents p a ++ es) =
      [.clkLo, .dioRel, .wait, .clkRel, .wait, .wait, .clkLo, .wait] ++ stripAck es := by
  cases p <;> cases a <;> simp [ackEvents, stripAck]

/-- Without its acknowledgement a byte's events depend on the byte alone. -/
theorem stripAck_byteEvents (p : AckDrivePolicy) (b : Byte) (a c : Level) (es : List Event) :
    stripAck (byteEvents p b a ++ es) = stripAck (byteEvents p b c ++ es) := by
  simp only [byteEvents, List.append_assoc, stripAck_slotEvents, stripAck_ackEvents]

end Sys2Proof.Machine
end

