-- ==== Sys2Proof/Tests/Slice0.lean ====
section
/-! SUPPORT. The model's own tests: the checks of WellFormed.lean, decoding, one step per command against
spec/95_test_vectors.md and the rules' examples, and a witness for every statement that has hypotheses. Expected values
are the spec's; those marked (ref) rest on its reference defaults. -/

namespace Sys2Proof.Tests

open Sys2Proof.Machine

/-! ## Well-formedness: an ill-formed term for each check -/

theorem test_asm_too_few_operands : (AsmLine.mk .wscr [2]).wf = false := by decide
theorem test_asm_too_many_operands : (AsmLine.mk .clr [0]).wf = false := by decide
theorem test_asm_byte_too_large : (AsmLine.mk .encd [256]).wf = false := by decide
theorem test_asm_position_too_large : (AsmLine.mk .wseg [8, 0]).wf = false := by decide
theorem test_asm_flag_too_large : (AsmLine.mk .sbrt [7, 2]).wf = false := by decide
/-- R82: positions are not checked against N. -/
theorem test_asm_position_in_field : (AsmLine.mk .wseg [7, 0]).wf = true := by decide
theorem test_setsegs_too_long : (Pseudo.setSegs 0#3 [1, 2, 3, 4, 5]).wf 4 = false := by decide
theorem test_show_wrong_length : (Pseudo.showCodes [1, 2, 3]).wf 4 = false := by decide
/-- 95 section 7, P2: FLUSH is the word 0x5000. -/
theorem test_flush_expands : Pseudo.flush.expand.map encode = [0x5000#16] := by decide
/-- R83: SETSEGS is the scratch writes and one COMMIT m, pos. -/
theorem test_setsegs_expands :
    (Pseudo.setSegs 1#3 [0x77, 0x7C]).expand.map encode = [0x3077#16, 0x317C#16, 0x5021#16] := by decide

/-- A set of parameters with a glyph whose dot is set, and one whose DISPLAY byte has a low nibble, are refused. -/
theorem test_config_dot_set : Config.wf { Config.reference .four with degreeCode := 0x80#8 } = false := by decide
theorem test_config_display_nibble : Config.wf { Config.reference .four with cmdDisplay := 0x81#8 } = false := by decide
theorem test_config_short_table : Config.wf { Config.reference .six with digitTable := [] } = false := by decide
theorem test_config_reference : Config.wf (Config.reference .six) = true := by decide

/-! ## Decoding: words written from the spec's encodings (R71 to R76) and its verdicts (95 section 5) -/

theorem test_decode_encd : decode 0b0001_0000_11111111#16 = .instr (.encd 255#8) := by decide
theorem test_decode_enca : decode 0b0010_0000_10110000#16 = .instr (.enca 176#8) := by decide
theorem test_decode_wscr : decode 0b0011_0111_00000000#16 = .instr (.wscr 7#3 0#8) := by decide
theorem test_decode_wseg : decode 0b0100_0101_00000000#16 = .instr (.wseg 5#3 0#8) := by decide
theorem test_decode_commit : decode 0b0101_0000_0110_0001#16 = .instr (.commit 6#3 1#3) := by decide
theorem test_decode_clr : decode 0b0110_000000000000#16 = .instr .clr := by decide
theorem test_decode_rdbuf : decode 0b0111_000000000000#16 = .instr .rdbuf := by decide
theorem test_decode_sflip : decode 0b1000_000000000001#16 = .instr (.sflip true) := by decide
theorem test_decode_gflip : decode 0b1001_000000000000#16 = .instr .gflip := by decide
theorem test_decode_sbrt : decode 0b1010_0001_11111111#16 = .instr (.sbrt 255#8 true) := by decide
theorem test_decode_init : decode 0b1011_000000000000#16 = .instr (.init false) := by decide
theorem test_decode_bstart : decode 0b1100_000000000000#16 = .instr .bstart := by decide
theorem test_decode_bstop : decode 0b1101_000000000000#16 = .instr .bstop := by decide
theorem test_decode_bwrite : decode 0b1110_0000_01000000#16 = .instr (.bwrite 0x40#8) := by decide
theorem test_decode_reserved_opcodes :
    [0x0000#16, 0xF000#16, 0xFFFF#16].map decode = [.reservedOpcode, .reservedOpcode, .reservedOpcode] := by decide
theorem test_decode_reserved_bits :
    [0x1100#16, 0x3800#16, 0x5008#16, 0x5080#16, 0x6001#16, 0x8002#16, 0xA200#16, 0xB002#16, 0xE100#16].all
      (fun w => decode w == .reservedBits) = true := by decide
/-- No two rows of the table share a word: their patterns differ in w[15:12], which every mask covers (R79). -/
theorem test_rows_disjoint : opcodeTable.Pairwise (fun r q => opField r.pat ≠ opField q.pat) := by decide
theorem test_table_word : decodeTableWord 16 0x433F = some (.wseg 3#3 0x3F#8) := by decide

/-! ## States for the tests -/

/-- A block under the reference defaults with given buffers, FLIP and BRIGHT, every byte acknowledged. -/
def block (w : Width) (live scr : List Byte) (flip : Bool) (bright : BitVec 4) : State :=
  { State.construct (Config.reference w) bright (fun _ => 0#8) (fun _ => 0#8) false
      { clockPin := 0, dataPin := 1, flip := flip } with
    live := live, scr := scr, dioIn := List.replicate 12 .low }

/-- The 4-digit block of vector V1: LIVE all 0, FLIP = 0, BRIGHT = 0xF. -/
def blockV1 : State := block .four [0, 0, 0, 0] [0x06, 0x5B, 0x4F, 0x66] false 0xF#4

/-- A 6-digit block. -/
def blockSix : State := block .six [0, 0, 0, 0, 0, 0] [0x77, 0x7C, 0, 0, 0, 0] false 0xF#4

/-- A field of the next state of one command. -/
def after {α : Type} (i : Instr) (s : State) (f : State → α) : Option α := (nextOf (exec i s)).map f

/-! A flush is compared through `flush_eq`, which puts its 367 or more events in one written-out list. -/

theorem after_wseg {α : Type} (f : State → α) {s : State} {pos : BitVec 3} (code : Byte)
    (h : posOk s.width pos = true) :
    after (.wseg pos code) s f = some (f (flushed (writeLive pos.toNat code s))) := by
  simp [after, exec, execWseg, h, flush_eq, nextOf]

theorem after_commit {α : Type} (f : State → α) {s : State} {len pos : BitVec 3}
    (h : rangeOk s.width len pos = true) :
    after (.commit len pos) s f = some (f (flushed (copyScratch len.toNat pos.toNat s))) := by
  simp [after, exec, execCommit, h, flush_eq, nextOf]

theorem after_clr {α : Type} (f : State → α) (s : State) :
    after .clr s f = some (f (flushed (clearLive s))) := by
  simp [after, exec, execClr, flush_eq, nextOf]

theorem after_init {α : Type} (f : State → α) (s : State) :
    after (.init true) s f = some (f (flushed (clearLive (emitAll [.clkRel, .dioRel] s)))) := by
  simp [after, exec, execInit, flush_eq, nextOf]

/-! ## The segment encoder (95 section 2, ref) -/

theorem test_encd_wraps : after (.encd 27#8) blockV1 (·.resps) = some [.code 0x7C#8] := by decide
theorem test_encd_last : after (.encd 255#8) blockV1 (·.resps) = some [.code 0x71#8] := by decide
theorem test_enca_degree_then_blank :
    ([176#8, 175#8, 177#8, 128#8, 31#8].map (encAscii (Config.reference .four))) = [0x63#8, 0#8, 0#8, 0#8, 0#8] := by decide
theorem test_enca_table :
    ([32#8, 45#8, 72#8, 77#8, 87#8, 126#8, 127#8].map (encAscii (Config.reference .four))) =
      [0x00#8, 0x40#8, 0x76#8, 0x15#8, 0x2A#8, 0x01#8, 0x00#8] := by decide

/-! ## The orientation mux (95 section 3) -/

theorem test_flipSeg : [0x01#8, 0x07#8, 0x38#8, 0x40#8, 0x80#8, 0xFF#8, 0x4F#8, 0x77#8].map flipSeg =
    [0x08#8, 0x38#8, 0x07#8, 0x40#8, 0x00#8, 0x7F#8, 0x79#8, 0x7E#8] := by decide
/-- F1 and F2: the dot goes to position N − 2 − j and the last entry's is dropped. -/
theorem test_flip_dots :
    wireData (block .four [0x06, 0xDB, 0x4F, 0x66] [] true 0#4) = [0x74, 0xF9, 0x5B, 0x30] ∧
    wireData (block .four [0x80, 0x80, 0x80, 0x80] [] true 0#4) = [0x80, 0x80, 0x80, 0x00] := by decide
/-- F5 -/
theorem test_flip_six : wireData (block .six [0x86, 0x5B, 0xCF, 0x66, 0x6D, 0xFD] [] true 0#4) =
    [0x6F, 0x6D, 0xF4, 0x79, 0xDB, 0x30] := by decide

/-! ## The framer (95 section 4) -/

/-- R130's example. -/
theorem test_bstart : after .bstart blockV1 (fun t => (t.tr, t.clkDrv, t.dioDrv)) =
    some ([.dioLo, .wait], false, true) := by decide
/-- T4 -/
theorem test_bstop : after .bstop blockV1 (·.tr) =
    some [.dioLo, .wait, .clkRel, .wait, .dioRel, .wait] := by decide
/-- T1: the 49 events of BWRITE 0x40, acknowledged. -/
theorem test_bwrite_trace : after (.bwrite 0x40#8) blockV1 (·.tr) = some
    [.clkLo, .dioLo, .wait, .clkRel, .wait, .clkLo, .dioLo, .wait, .clkRel, .wait,
     .clkLo, .dioLo, .wait, .clkRel, .wait, .clkLo, .dioLo, .wait, .clkRel, .wait,
     .clkLo, .dioLo, .wait, .clkRel, .wait, .clkLo, .dioLo, .wait, .clkRel, .wait,
     .clkLo, .dioRel, .wait, .clkRel, .wait, .clkLo, .dioLo, .wait, .clkRel, .wait,
     .clkLo, .dioRel, .wait, .clkRel, .wait, .sample .low, .wait, .clkLo, .wait] := by decide
/-- T2: response and number of events for each policy and sample. -/
theorem test_bwrite_policies :
    ([(AckDrivePolicy.onNack, Level.low), (.onNack, .high), (.onAck, .low), (.onAck, .high)].map fun x =>
      after (.bwrite 0x40#8) { blockV1 with cfg := { blockV1.cfg with ackDrivePolicy := x.1 }, dioIn := [x.2] }
        (fun t => (t.resps, t.ackLast, t.tr.length))) =
    [some ([.bit true], true, 49), some ([.bit false], false, 50), some ([.bit true], true, 50),
     some ([.bit false], false, 49)] := by decide

/-! ## The buffer (95 section 6) -/

theorem test_wscr : after (.wscr 2#3 0x4F#8) (block .four [] [1, 2, 3, 4] false 0#4) (fun t => (t.scr, t.tr)) =
    some ([1, 2, 0x4F, 4], []) := by decide
/-- 95 section 5: 0x3700 is RANGE for both widths. -/
theorem test_wscr_range : after (.wscr 7#3 0#8) blockSix (fun t => (t.stopped, t.scr)) =
    some (some ⟨.range, 0x3700#16⟩, [0x77, 0x7C, 0, 0, 0, 0]) := by decide

/-- V1: one full flush, read off the lines. -/
theorem test_wseg_frames : after (.wseg 3#3 0x3F#8) blockV1 (fun t => (t.live, framesSeen t.tr, t.ackLast)) =
    some ([0, 0, 0, 0x3F], [[0x40], [0xC0, 0, 0, 0, 0x3F], [0x8F]], true) := by
  rw [after_wseg _ _ rfl]
  decide +kernel
/-- V13: the third byte of the flush NACKs. The write stays, the flush goes on, one more event. -/
theorem test_wseg_nack :
    after (.wseg 1#3 0x06#8) { blockV1 with dioIn := [.low, .low, .high, .low, .low, .low, .low] }
      (fun t => (t.live, t.tr.length, t.tr.count .wait, t.ackLast)) =
    some ([0, 0x06, 0, 0], 368, 152, true) := by
  rw [after_wseg _ _ rfl]
  decide +kernel
/-- V2 -/
theorem test_commit_frames : after (.commit 2#3 1#3) blockV1 (fun t => (t.live, framesSeen t.tr, t.scr)) =
    some ([0, 0x06, 0x5B, 0], [[0x40], [0xC0, 0, 0x06, 0x5B, 0], [0x8F]], [0x06, 0x5B, 0x4F, 0x66]) := by
  rw [after_commit _ rfl]
  decide +kernel
/-- 95 section 5: 0x5041 is RANGE for N = 4 and runs for N = 6. -/
theorem test_commit_range : after (.commit 4#3 1#3) blockV1 (·.stopped) = some (some ⟨.range, 0x5041#16⟩) := by decide
theorem test_commit_six : after (.commit 4#3 1#3) blockSix (fun t => (t.stopped, t.live)) =
    some (none, [0, 0x77, 0x7C, 0, 0, 0]) := by
  rw [after_commit _ rfl]
  decide
/-- V4: CLR with BRIGHT = 0x8. -/
theorem test_clr_frames :
    after .clr (block .four [1, 2, 3, 4] [] true 0x8#4) (fun t => (t.live, framesSeen t.tr)) =
    some ([0, 0, 0, 0], [[0x40], [0xC0, 0, 0, 0, 0], [0x88]]) := by
  rw [after_clr]
  decide +kernel
/-- V10: canonical under FLIP = 1. -/
theorem test_rdbuf : after .rdbuf (block .four [0x06, 0xDB, 0x4F, 0x66] [] true 0#4) (fun t => (t.resps, t.tr)) =
    some ([.codes [0x06, 0xDB, 0x4F, 0x66]], []) := by decide
/-- V9 -/
theorem test_sflip : after (.sflip true) blockV1 (fun t => (t.flip, t.tr)) = some (true, []) := by decide
theorem test_gflip : after .gflip (block .four [] [] true 0#4) (·.resps) = some [.bit true] := by decide
/-- V6, V7, V8 -/
theorem test_sbrt :
    [after (.sbrt 9#8 true) blockV1 (·.bright), after (.sbrt 15#8 false) blockV1 (·.bright),
     after (.sbrt 8#8 true) blockV1 (·.bright)] = [some 0x9#4, some 0x7#4, some 0x8#4] := by decide
/-- V11 -/
theorem test_init_releases : after (.init false) { blockV1 with clkDrv := true, dioDrv := true }
    (fun t => (t.tr, t.clkDrv, t.dioDrv)) = some ([.clkRel, .dioRel], false, false) := by decide
/-- V12: INIT 1 with BRIGHT_RESET = 0x2, 369 events, and CMD_DISPLAY | 0x2 in the last frame. -/
theorem test_init_clears : after (.init true) (block .four [9, 9, 9, 9] [] false 0x2#4)
    (fun t => (t.live, framesSeen t.tr, t.tr.length)) =
    some ([0, 0, 0, 0], [[0x40], [0xC0, 0, 0, 0, 0], [0x82]], 369) := by
  rw [after_init]
  decide +kernel
/-- P5: a partial COMMIT under FLIP = 1 on a 6-digit block. -/
theorem test_commit_flipped :
    after (.commit 2#3 4#3) (block .six [0, 0, 0, 0, 0, 0] [0x77, 0x7C, 0, 0, 0, 0] true 0x4#4)
      (fun t => (framesSeen t.tr, t.tr.length)) =
    some ([[0x40], [0xC0, 0x67, 0x7E, 0, 0, 0, 0], [0x84]], 465) := by
  rw [after_commit _ rfl]
  decide +kernel

/-! ## Steps -/

/-- P4: an illegal word stops the block with the word recorded, and the next step answers the fault. -/
theorem test_step_illegal :
    (nextOf (step { blockV1 with cmds := [0x1F00#16, 0x6000#16] })).map (fun t => (t.stopped, t.tr, t.cmds)) =
    some (some ⟨.illegalCommand, 0x1F00#16⟩, [], [0x6000#16]) := by decide
/-- P3: 0x463F is RANGE for N = 6. -/
theorem test_step_range :
    (nextOf (step { blockSix with cmds := [0x463F#16] })).map (fun t => (t.stopped, t.live)) =
    some (some ⟨.range, 0x463F#16⟩, [0, 0, 0, 0, 0, 0]) := by decide
theorem test_step_stopped :
    step { blockV1 with stopped := some ⟨.range, 0x463F#16⟩, cmds := [0x6000#16] } = .fault .range := by rfl
/-- A word placed for the next step runs as the first command after reset. -/
theorem test_first_command_after_reset :
    (nextOf (step (State.reset.withFetchWord 16 0x8001))).map (·.flip) = some true := by decide
theorem test_reset_step_takes_each_row :
    [0x1000, 0x2000, 0x3000, 0x4000, 0x5000, 0x6000, 0x7000, 0x8000, 0x9000, 0xA000, 0xB000, 0xC000, 0xD000,
      0xE000].all (fun w => (nextOf (step (State.reset.withFetchWord 16 w))).isSome &&
        (decodeTableWord 16 w).isSome) = true := by decide

/-! ## Witnesses: for every statement with hypotheses, states and operands that meet them together -/

/-- A running block in the middle of a frame, with commands pending: every invariant holds in it. -/
def busy : State :=
  { blockV1 with cmds := [0x8001#16, 0x6000#16], tr := [.clkLo, .dioRel, .sample .low], clkDrv := true, ackLast := true }

/-- One command of each row. -/
def eachCommand : List Instr :=
  [.encd 9#8, .enca 65#8, .wscr 3#3 1#8, .wseg 3#3 1#8, .commit 2#3 2#3, .clr, .rdbuf, .sflip true, .gflip,
    .sbrt 7#8 true, .init true, .init false, .bstart, .bstop, .bwrite 0x40#8]

/-- A block one of whose bytes is about to be refused. -/
def nacked : State := { blockV1 with dioIn := [.high] }

theorem wseg_next (s : State) {pos : BitVec 3} (code : Byte) (h : posOk s.width pos = true) :
    exec (.wseg pos code) s = .next (flushed (writeLive pos.toNat code s)) := by
  simp [exec, execWseg, h, flush_eq]

theorem busy_steps : ∃ t, step busy = .next t := ⟨_, rfl⟩

theorem witness_EncodeOfDecodeIsTheWord : decode 0xA1FF#16 = .instr (.sbrt 255#8 true) := by decide
/-- R82 at both ends of each field. -/
theorem witness_AssemblerSpellsTheWord :
    (assemble ⟨.encd, [255]⟩).map encode = some 0x10FF#16 ∧ assemble ⟨.encd, [256]⟩ = none ∧
    (assemble ⟨.wseg, [7, 255]⟩).map encode = some 0x47FF#16 ∧ assemble ⟨.wscr, [8, 255]⟩ = none ∧
    assemble ⟨.wseg, [7, 256]⟩ = none ∧ (assemble ⟨.commit, [7, 7]⟩).map encode = some 0x5077#16 ∧
    assemble ⟨.commit, [8, 7]⟩ = none ∧ assemble ⟨.commit, [7, 8]⟩ = none ∧
    (assemble ⟨.sbrt, [255, 1]⟩).map encode = some 0xA1FF#16 ∧ assemble ⟨.sbrt, [256, 1]⟩ = none ∧
    assemble ⟨.sbrt, [255, 2]⟩ = none ∧ (assemble ⟨.sflip, [1]⟩).map encode = some 0x8001#16 ∧
    assemble ⟨.init, [2]⟩ = none := by decide
theorem witness_StepRunsTheDecodedCommand :
    Running busy ∧ busy.cmds = 0x8001#16 :: [0x6000#16] ∧ decode 0x8001#16 = .instr (.sflip true) := by decide
theorem witness_IllegalWordStopsTheBlock :
    Running { busy with cmds := [0x1100#16] } ∧
    MatchesNoRow 0x0000#16 ∧ MatchesNoRow 0xF000#16 ∧ MatchesNoRow 0x1100#16 ∧ MatchesNoRow 0x5088#16 :=
  ⟨rfl, by decide, by decide, by decide, by decide⟩
theorem witness_RangeFaultRecordsTheWord :
    Running { busy with cmds := [0x4400#16] } ∧ decode 0x4400#16 = .instr (.wseg 4#3 0#8) ∧
    OutOfRange busy.width (.wseg 4#3 0#8) ∧ ¬ OutOfRange busy.width (.wseg 3#3 0#8) ∧
    OutOfRange busy.width (.wscr 4#3 0#8) ∧ OutOfRange busy.width (.commit 0#3 4#3) ∧
    OutOfRange busy.width (.commit 3#3 2#3) ∧ ¬ OutOfRange busy.width (.commit 2#3 2#3) := by
  unfold OutOfRange
  decide
theorem witness_StoppedBlockTakesNoCommand :
    ({ busy with stopped := some ⟨.range, 0x4400#16⟩ } : State).stopped = some ⟨.range, 0x4400#16⟩ := rfl
/-- Each way out of `none`, and a step that keeps it. -/
theorem witness_StopsOnlyAsTheRulesSay :
    (nextOf (step busy)).map (·.stopped) = some none ∧
    (nextOf (step { busy with cmds := [0x1100#16] })).map (·.stopped) = some (some ⟨.illegalCommand, 0x1100#16⟩) ∧
    (nextOf (step { busy with cmds := [0x4400#16] })).map (·.stopped) = some (some ⟨.range, 0x4400#16⟩) := by decide
theorem witness_OnlyAStoppedBlockHasNoNextState : Running busy ∧ ∃ t, step busy = .next t :=
  ⟨rfl, busy_steps⟩
theorem witness_OnlyAnOperandOutOfRangeStopsACommand :
    (∃ t, exec (.wscr 4#3 0#8) busy = .next t ∧ OutOfRange busy.width (.wscr 4#3 0#8)) ∧
    ∃ t, exec (.wscr 3#3 0#8) busy = .next t ∧ ¬ OutOfRange busy.width (.wscr 3#3 0#8) :=
  ⟨⟨_, rfl, by unfold OutOfRange; decide⟩, ⟨_, rfl, by unfold OutOfRange; decide⟩⟩
theorem witness_WaitingBlockIsUnchanged : Running blockV1 ∧ blockV1.cmds = [] := by decide
theorem witness_CommandStreamIsOnlyTaken : busy.cmds = 0x8001#16 :: [0x6000#16] ∧ ∃ t, step busy = .next t :=
  ⟨rfl, busy_steps⟩
theorem witness_StepKeepsBuffersExact : BuffersExact busy ∧ ∃ t, step busy = .next t := ⟨by decide, busy_steps⟩
theorem witness_StepKeepsPinsFollowTrace : PinsFollowTrace busy ∧ ∃ t, step busy = .next t := ⟨by decide, busy_steps⟩
theorem witness_StepKeepsAckFollowsTrace : AckFollowsTrace busy ∧ ∃ t, step busy = .next t :=
  ⟨by intro a h; cases h; rfl, busy_steps⟩
theorem witness_StepKeepsSamplesReleased : SamplesReleased busy.tr ∧ ∃ t, step busy = .next t :=
  ⟨(samplesReleased_iff _).mpr rfl, busy_steps⟩
theorem witness_TablesNeverChange : ∃ t, step busy = .next t := busy_steps
theorem witness_BitDelayIsFixedAndUnread : ∃ t, step busy = .next t := busy_steps
theorem witness_TraceOnlyGrows : ∃ t, step busy = .next t := busy_steps
theorem witness_ResponsesAreThoseOfTheRule :
    blockV1.live.length = blockV1.width ∧ ∀ i ∈ eachCommand, ∃ t, exec i blockV1 = .next t :=
  ⟨rfl, by simp only [eachCommand, List.forall_mem_cons]; exact
    ⟨⟨_, rfl⟩, ⟨_, rfl⟩, ⟨_, rfl⟩, ⟨_, rfl⟩, ⟨_, rfl⟩, ⟨_, rfl⟩, ⟨_, rfl⟩, ⟨_, rfl⟩, ⟨_, rfl⟩, ⟨_, rfl⟩, ⟨_, rfl⟩,
      ⟨_, rfl⟩, ⟨_, rfl⟩, ⟨_, rfl⟩, ⟨_, rfl⟩, by simp⟩⟩
theorem witness_EncdRespondsTheDigit : blockV1.cfg.wf = true := by decide
/-- The ranges of R104 where they meet: 31, 32, 127, 128 and 175, 176, 177. -/
theorem witness_EncaRespondsTheGlyph :
    blockV1.cfg.wf = true ∧ (176#8).toNat = 176 ∧ (31#8).toNat < 32 ∧ 127 < (128#8).toNat ∧ (175#8).toNat ≠ 176 ∧
    (177#8).toNat ≠ 176 ∧ 32 ≤ (32#8).toNat ∧ (127#8).toNat ≤ 127 := by decide
theorem witness_WireDataFollowsTheOrientation :
    (blockV1.live.length = blockV1.width ∧ blockV1.flip = false) ∧
    ({ blockV1 with flip := true } : State).flip = true ∧ 0 < blockV1.width ∧ 3 < blockV1.width := by decide
theorem witness_FlipTwiceKeepsTheSegments : 0 < blockV1.width ∧ 3 < blockV1.width := by decide
/-- The entry whose dot is dropped, with another dot. -/
theorem witness_FlippedDotsMoveOneToTheLeft :
    0 + 2 ≤ blockV1.width ∧ 2 + 2 ≤ blockV1.width ∧ 3 < blockV1.width ∧
    0x80#8 &&& 0x7F#8 = readLive blockV1 (blockV1.width - 1) &&& 0x7F#8 := by decide
/-- A drive inside a slot, and the drive after a refused byte. -/
theorem witness_DioMovesUnderALowClock :
    (∃ t, exec (.bwrite 0x40#8) nacked = .next t ∧ newEvents nacked t = [.clkLo] ++ .dioLo :: (newEvents nacked t).drop 2) ∧
    ∃ t, exec (.bwrite 0x40#8) nacked = .next t ∧
      newEvents nacked t = (newEvents nacked t).take 46 ++ .dioLo :: [.wait, .clkLo, .wait] ∧
      ((newEvents nacked t).take 46).getLast? = some (.sample .high) :=
  ⟨⟨_, rfl, by decide⟩, ⟨_, rfl, by decide, by decide⟩⟩
/-- The last position of each width, and the first one past it. -/
theorem witness_WscrWritesOneScratchEntry :
    (3#3).toNat < blockV1.width ∧ blockV1.width ≤ (4#3).toNat ∧
    (5#3).toNat < blockSix.width ∧ blockSix.width ≤ (6#3).toNat := by decide
theorem witness_WsegWritesOneEntryAndFlushes :
    (0#3).toNat < blockV1.width ∧ (3#3).toNat < blockV1.width ∧ blockV1.width ≤ (4#3).toNat ∧
    (5#3).toNat < blockSix.width ∧ blockSix.width ≤ (6#3).toNat := by decide
/-- `pos + len` at N and at N + 1, and `pos` at N − 1 and at N, with len = 0. -/
theorem witness_CommitCopiesScratchAndFlushes :
    BuffersExact blockV1 ∧ ((2#3).toNat < blockV1.width ∧ (2#3).toNat + (2#3).toNat ≤ blockV1.width) ∧
    ((3#3).toNat < blockV1.width ∧ (3#3).toNat + (0#3).toNat ≤ blockV1.width) ∧
    blockV1.width < (2#3).toNat + (3#3).toNat ∧ blockV1.width ≤ (4#3).toNat := by decide
theorem witness_ClrZeroesAndFlushes : blockV1.live.length = blockV1.width := by decide
theorem witness_RdbufRespondsTheBuffer : blockSix.live.length = blockSix.width := by decide
theorem witness_InitReleasesAndMayClear : blockV1.live.length = blockV1.width := by decide
/-- Both widths. -/
theorem witness_FlushHasTheStatedSize :
    (blockV1.cfg.width = .four ∧ ∃ t, exec (.commit 0#3 0#3) blockV1 = .next t) ∧
    (blockSix.cfg.width = .six ∧ ∃ t, exec (.commit 0#3 0#3) blockSix = .next t) :=
  ⟨⟨rfl, _, rfl⟩, ⟨rfl, _, rfl⟩⟩
theorem witness_ReceiverReadsTheThreeFrames :
    blockV1.clkDrv = false ∧ blockV1.dioDrv = false ∧ blockV1.cfg.ackDrivePolicy = .onNack ∧
    (∀ k, k < blockV1.width + 3 → blockV1.answer k = .low) ∧ ∃ t, exec (.commit 0#3 0#3) blockV1 = .next t :=
  ⟨rfl, rfl, rfl, by decide, _, rfl⟩
theorem witness_WaitsOfEachCommand :
    (∃ t, exec (.wseg 3#3 1#8) blockV1 = .next t ∧ ¬ OutOfRange blockV1.width (.wseg 3#3 1#8)) ∧
    ∃ t, exec (.commit 2#3 2#3) blockV1 = .next t ∧ ¬ OutOfRange blockV1.width (.commit 2#3 2#3) :=
  ⟨⟨_, rfl, by unfold OutOfRange; decide⟩, ⟨_, rfl, by unfold OutOfRange; decide⟩⟩
theorem witness_AnswersChangeOnlyTheAcknowledgement :
    (∃ t, exec (.bwrite 0x40#8) blockV1 = .next t) ∧
    ∃ t, exec .clr blockV1 = .next t ∧ ∀ b, Instr.clr ≠ .bwrite b :=
  ⟨⟨_, rfl⟩, ⟨_, rfl, by simp⟩⟩
/-- A change of LIVE by each of the four writers. -/
theorem witness_WritesTouchOnlyTheirRange :
    (∃ t, exec (.wseg 3#3 1#8) blockV1 = .next t ∧ t.live[3]? ≠ blockV1.live[3]?) ∧
    (∃ t, exec (.commit 2#3 2#3) blockV1 = .next t ∧ t.live[3]? ≠ blockV1.live[3]?) ∧
    (∃ t, exec .clr { blockV1 with live := [1, 2, 3, 4] } = .next t ∧ t.live[3]? ≠ some 4#8) ∧
    ∃ t, exec (.init true) { blockV1 with live := [1, 2, 3, 4] } = .next t ∧ t.live[3]? ≠ some 4#8 :=
  ⟨⟨_, rfl, by rw [flush_eq]; decide⟩, ⟨_, rfl, by rw [flush_eq]; decide⟩, ⟨_, rfl, by rw [flush_eq]; decide⟩,
    ⟨_, rfl, by rw [if_pos rfl, flush_eq]; decide⟩⟩
theorem witness_OnlyTheNamedCommandsWrite :
    (∃ t, exec (.wscr 3#3 1#8) blockV1 = .next t ∧ t.scr ≠ blockV1.scr) ∧
    (∃ t, exec (.sflip true) blockV1 = .next t ∧ t.flip ≠ blockV1.flip) ∧
    (∃ t, exec (.sbrt 0#8 false) blockV1 = .next t ∧ t.bright ≠ blockV1.bright) ∧
    ∃ t, exec (.bwrite 0#8) blockV1 = .next t ∧ t.ackLast ≠ blockV1.ackLast :=
  ⟨⟨_, rfl, by decide⟩, ⟨_, rfl, by decide⟩, ⟨_, rfl, by decide⟩, ⟨_, rfl, by decide⟩⟩
theorem witness_ReadersOnlyRespondAndWritersFlush :
    (∃ t, exec .rdbuf blockV1 = .next t) ∧
    (∃ t, exec (.wseg 3#3 1#8) blockV1 = .next t ∧ ¬ OutOfRange blockV1.width (.wseg 3#3 1#8)) ∧
    (∃ t, exec (.commit 2#3 2#3) blockV1 = .next t ∧ ¬ OutOfRange blockV1.width (.commit 2#3 2#3)) ∧
    (∃ t, exec .clr blockV1 = .next t ∧ ¬ OutOfRange blockV1.width .clr) ∧
    ∃ t, exec (.init true) blockV1 = .next t :=
  ⟨⟨_, rfl⟩, ⟨_, rfl, by unfold OutOfRange; decide⟩, ⟨_, rfl, by unfold OutOfRange; decide⟩,
    ⟨_, rfl, by simp [OutOfRange]⟩, ⟨_, rfl⟩⟩
theorem witness_RepeatedWsegFlushesAgain :
    (3#3).toNat < blockV1.width ∧ ∃ t u, exec (.wseg 3#3 1#8) blockV1 = .next t ∧ exec (.wseg 3#3 1#8) t = .next u :=
  ⟨by decide, _, _, wseg_next blockV1 1#8 rfl, wseg_next (flushed (writeLive 3 1#8 blockV1)) 1#8 rfl⟩
theorem witness_ReadBackReturnsTheWrittenCodes :
    BuffersExact blockV1 ∧
    (∃ t u, exec (.wseg 3#3 1#8) blockV1 = .next t ∧ exec .rdbuf t = .next u ∧ (3#3).toNat < blockV1.width) ∧
    (∃ t u, exec (.commit 2#3 2#3) blockV1 = .next t ∧ exec .rdbuf t = .next u ∧
      (2#3).toNat < blockV1.width ∧ (2#3).toNat + (2#3).toNat ≤ blockV1.width) ∧
    (∃ t u, exec .clr blockV1 = .next t ∧ exec .rdbuf t = .next u) ∧
    ∃ t u, exec (.init true) blockV1 = .next t ∧ exec .rdbuf t = .next u :=
  ⟨by decide, ⟨_, _, rfl, rfl, by decide⟩, ⟨_, _, rfl, rfl, by decide⟩, ⟨_, _, rfl, rfl⟩, ⟨_, _, rfl, rfl⟩⟩
theorem witness_OrientationAndBrightnessTakeEffectAtTheFlush :
    (∃ t, exec (.sflip true) blockV1 = .next t) ∧ ∃ t, exec (.sbrt 9#8 true) blockV1 = .next t :=
  ⟨⟨_, rfl⟩, ⟨_, rfl⟩⟩
theorem witness_LiveIgnoresTheOrientation : ∃ t, exec (.wseg 3#3 1#8) blockV1 = .next t := ⟨_, rfl⟩
/-- A command that flushes, one that does not, and the one that sets BRIGHT. -/
theorem witness_BrightnessChangesOnlyTheDisplayByte :
    (∃ t, exec .clr blockV1 = .next t ∧ ∀ level on, Instr.clr ≠ .sbrt level on) ∧
    (∃ t, exec .bstart blockV1 = .next t ∧ ∀ level on, Instr.bstart ≠ .sbrt level on) ∧
    ∃ t, exec (.sbrt 9#8 true) blockV1 = .next t :=
  ⟨⟨_, rfl, by simp⟩, ⟨_, rfl, by simp⟩, ⟨_, rfl⟩⟩
/-- A full buffer, and nothing at the last position. -/
theorem witness_SetSegsReproducesSetSegments :
    BuffersExact blockV1 ∧
    ([1#8, 2#8, 3#8, 4#8].length ≤ blockV1.width ∧ (0#3).toNat < blockV1.width ∧ (0#3).toNat + 4 ≤ blockV1.width) ∧
    ([] : List Byte).length ≤ blockV1.width ∧ (3#3).toNat < blockV1.width ∧ (3#3).toNat + 0 ≤ blockV1.width := by decide

end Sys2Proof.Tests
end

/-! ## Proofs: steps case by case

Each way a step can go, as an equation: the forward companions of `step_shape`. -/

namespace Sys2Proof.Machine

theorem step_stopped {s : State} {st : Stop} (h : s.stopped = some st) : step s = .fault st.reason := by
  simp only [step, fetch_stopped h]

theorem step_idle {s : State} (h : Running s) (hc : s.cmds = []) : step s = .next s := by
  simp only [step, fetch_idle h hc]

theorem step_instr {s : State} (h : Running s) {w : Word} {rest : List Word} (hc : s.cmds = w :: rest) {i : Instr}
    (hd : decode w = .instr i) : step s = exec i { s with cmds := rest } := by
  simp only [step, fetch_command h hc, hd]

theorem step_noInstr {s : State} (h : Running s) {w : Word} {rest : List Word} (hc : s.cmds = w :: rest)
    (hd : ∀ i, decode w ≠ .instr i) : step s = .next (raiseFault .illegalCommand w { s with cmds := rest }) := by
  simp only [step, fetch_command h hc]
  cases hw : decode w with
  | instr i => exact absurd hw (hd i)
  | reservedOpcode => rfl
  | reservedBits => rfl

end Sys2Proof.Machine

/-! ## Proofs: BIT_DELAY is never read and never written (10_state.md R28)

Every operation commutes with replacing BIT_DELAY, so every command and every step does. That no step writes BIT_DELAY
follows: replace it by the value it has. -/

namespace Sys2Proof.Machine

/-- `s` with BIT_DELAY `d`. -/
def withBitDelay (d : Nat) (s : State) : State := { s with bitDelay := d }

@[simp] theorem withBitDelay_width (d : Nat) (s : State) : (withBitDelay d s).width = s.width := rfl

theorem withBitDelay_self (s : State) : withBitDelay s.bitDelay s = s := rfl

/-- An outcome with `f` applied to its next state; a fault or a refusal stays. -/
def mapNext (f : State → State) : Result → Result
  | .next s => .next (f s)
  | .fault r => .fault r
  | .refused r => .refused r

@[simp] theorem mapNext_next (f : State → State) (s : State) : mapNext f (.next s) = .next (f s) := rfl

/-! The operations a command is made of, each with BIT_DELAY replaced before and after. -/

@[simp] theorem writeLive_withBitDelay (k : Nat) (v : Byte) (d : Nat) (s : State) :
    writeLive k v (withBitDelay d s) = withBitDelay d (writeLive k v s) := rfl

@[simp] theorem writeScr_withBitDelay (k : Nat) (v : Byte) (d : Nat) (s : State) :
    writeScr k v (withBitDelay d s) = withBitDelay d (writeScr k v s) := rfl

@[simp] theorem raiseFault_withBitDelay (r : Fault) (w : Word) (d : Nat) (s : State) :
    raiseFault r w (withBitDelay d s) = withBitDelay d (raiseFault r w s) := rfl

@[simp] theorem emitAll_withBitDelay (es : List Event) (d : Nat) (s : State) :
    emitAll es (withBitDelay d s) = withBitDelay d (emitAll es s) := by
  rw [emitAll_eq, emitAll_eq]
  rfl

@[simp] theorem copyScratch_withBitDelay (len pos d : Nat) (s : State) :
    copyScratch len pos (withBitDelay d s) = withBitDelay d (copyScratch len pos s) := by
  rw [copyScratch_eq, copyScratch_eq]
  rfl

@[simp] theorem clearLive_withBitDelay (d : Nat) (s : State) :
    clearLive (withBitDelay d s) = withBitDelay d (clearLive s) := by
  rw [clearLive_eq, clearLive_eq]
  rfl

@[simp] theorem writeByte_withBitDelay (b : Byte) (d : Nat) (s : State) :
    writeByte b (withBitDelay d s) = withBitDelay d (writeByte b s) := by
  rw [writeByte_eq, writeByte_eq]
  rfl

@[simp] theorem flush_withBitDelay (d : Nat) (s : State) :
    flush (withBitDelay d s) = withBitDelay d (flush s) := by
  rw [flush_eq, flush_eq]
  rfl

/-- No command reads BIT_DELAY: each is made of operations that commute, and its range check reads N alone. -/
theorem exec_withBitDelay (i : Instr) (d : Nat) (s : State) :
    exec i (withBitDelay d s) = mapNext (withBitDelay d) (exec i s) := by
  cases i with
  | encd v => rfl
  | enca v => rfl
  | wscr pos code => by_cases h : posOk s.width pos <;> simp [exec, execWscr, h]
  | wseg pos code => by_cases h : posOk s.width pos <;> simp [exec, execWseg, h]
  | commit len pos => by_cases h : rangeOk s.width len pos <;> simp [exec, execCommit, h]
  | clr => simp [exec, execClr]
  | rdbuf => rfl
  | sflip b => rfl
  | gflip => rfl
  | sbrt level on => rfl
  | init clr => cases clr <;> simp [exec, execInit]
  | bstart => simp [exec, execBstart, startCond]
  | bstop => simp [exec, execBstop, stopCond]
  | bwrite b =>
    simp only [exec, execBwrite, writeByte_withBitDelay, mapNext_next]
    rfl

/-- No step reads BIT_DELAY. -/
theorem step_withBitDelay (d : Nat) (s : State) :
    step (withBitDelay d s) = mapNext (withBitDelay d) (step s) := by
  cases hs : s.stopped with
  | some st =>
    rw [step_stopped hs, step_stopped (s := withBitDelay d s) hs]
    rfl
  | none =>
    cases hc : s.cmds with
    | nil => rw [step_idle hs hc, step_idle (s := withBitDelay d s) hs hc, mapNext_next]
    | cons w rest =>
      by_cases hw : ∃ i, decode w = .instr i
      · obtain ⟨i, hd⟩ := hw
        rw [step_instr hs hc hd, step_instr (s := withBitDelay d s) hs hc hd]
        exact exec_withBitDelay i d { s with cmds := rest }
      · have hd : ∀ i, decode w ≠ .instr i := not_exists.mp hw
        rw [step_noInstr hs hc hd, step_noInstr (s := withBitDelay d s) hs hc hd]
        rfl

theorem step_next_withBitDelay {s t : State} (h : step s = .next t) (d : Nat) :
    step (withBitDelay d s) = .next (withBitDelay d t) := by
  rw [step_withBitDelay, h, mapNext_next]

/-- No step writes BIT_DELAY: replacing it by the value it has changes neither the state nor, so, its next state. -/
theorem step_bitDelay {s t : State} (h : step s = .next t) : t.bitDelay = s.bitDelay := by
  have hself : step s = .next (withBitDelay s.bitDelay t) := step_next_withBitDelay h s.bitDelay
  have ht : t = withBitDelay s.bitDelay t := Host.Outcome.next.inj (h.symm.trans hself)
  rw [ht]
  rfl

/-- Settles O22: construction copies the argument, and a step commutes with replacing BIT_DELAY. -/
theorem bitDelayIsFixedAndUnread : Obligations.BitDelayIsFixedAndUnread := by
  unfold Obligations.BitDelayIsFixedAndUnread
  exact ⟨fun _ _ _ _ _ _ => rfl, fun _ _ h => ⟨step_bitDelay h, step_next_withBitDelay h⟩⟩

end Sys2Proof.Machine

/-! ## Proofs: the pin trace only grows (10_state.md R33) -/

namespace Sys2Proof.Machine

/-- No command removes or reorders events: each shape a next state can have keeps the trace or appends to it. -/
theorem exec_tr_append {i : Instr} {s t : State} (h : exec i s = .next t) : ∃ es, t.tr = s.tr ++ es := by
  have kept : ∀ u : State, u.tr = s.tr → ∃ es, u.tr = s.tr ++ es := fun u hu => ⟨[], by rw [hu, List.append_nil]⟩
  obtain ⟨r, rfl⟩ | ⟨k, v, rfl⟩ | ⟨w, rfl⟩ | ⟨b, rfl⟩ | ⟨v, rfl⟩ | ⟨l, -, rfl⟩ | ⟨l, -, rfl⟩ | rfl | rfl | rfl |
    ⟨b, rfl⟩ := exec_shape h
  · exact kept _ (respond_tr r s)
  · exact kept _ (writeScr_tr k v s)
  · exact kept _ (raiseFault_tr .range w s)
  · exact kept _ (setFlip_tr b s)
  · exact kept _ (setBright_tr v s)
  · exact ⟨_, rfl⟩
  · exact ⟨_, List.append_assoc ..⟩
  · exact ⟨_, rfl⟩
  · exact ⟨_, by rw [startCond_eq]⟩
  · exact ⟨_, by rw [stopCond_eq]⟩
  · exact ⟨_, by rw [respond_tr, writeByte_eq]⟩

/-- No step removes or reorders events. -/
theorem step_tr_append {s t : State} (h : step s = .next t) : ∃ es, t.tr = s.tr ++ es := by
  obtain ⟨-, ⟨-, rfl⟩ | ⟨w, rest, -, ⟨i, -, hi⟩ | ⟨-, rfl⟩⟩⟩ := step_shape h
  · exact ⟨[], (List.append_nil _).symm⟩
  · exact exec_tr_append (s := { s with cmds := rest }) hi
  · exact ⟨[], (List.append_nil _).symm⟩

/-- Settles O23, from the trace of every shape of a next state. -/
theorem traceOnlyGrows : Obligations.TraceOnlyGrows := by
  unfold Obligations.TraceOnlyGrows
  exact ⟨rfl, emit_tr, fun _ _ => step_tr_append⟩

end Sys2Proof.Machine

/-! ## Proofs: what construction leaves (10_state.md R38) -/

namespace Sys2Proof.Machine

theorem construct_live_getElem? (c : Config) (v : BitVec 4) (l r : Nat → Byte) (b : Bool) (a : ConstructArgs) {k : Nat}
    (hk : k < c.width.count) : (State.construct c v l r b a).live[k]? = some (l k) := by
  simp [State.construct, hk]

theorem construct_scr_getElem? (c : Config) (v : BitVec 4) (l r : Nat → Byte) (b : Bool) (a : ConstructArgs) {k : Nat}
    (hk : k < c.width.count) : (State.construct c v l r b a).scr[k]? = some (r k) := by
  simp [State.construct, hk]

/-- Settles O15: the buffers entry by entry, every other element as `State.construct` and its defaults write it. -/
theorem constructionFixesTheState : Obligations.ConstructionFixesTheState := by
  unfold Obligations.ConstructionFixesTheState
  refine ⟨fun c bright live scr ack a => ?_, rfl, rfl, rfl, rfl, rfl, rfl, rfl⟩
  exact ⟨rfl, rfl, rfl, rfl, rfl, construct_live_length .., construct_scr_length ..,
    fun k hk => ⟨construct_live_getElem? _ _ _ _ _ _ hk, construct_scr_getElem? _ _ _ _ _ _ hk⟩, rfl, rfl, rfl, rfl⟩

end Sys2Proof.Machine

/-! ## Proofs: what the readers and the writers of the memory do (20_memory.md R59)

A reader gives one response. A writer in range is one equation: it writes LIVE and then flushes. -/

namespace Sys2Proof.Machine

/-- A reader's next state is the old one with one more response. -/
theorem reader_responds {i : Instr} {s t : State}
    (hi : i = .rdbuf ∨ i = .gflip ∨ (∃ v, i = .encd v) ∨ ∃ v, i = .enca v) (h : exec i s = .next t) :
    ∃ r, t = respond r s := by
  obtain rfl | rfl | ⟨v, rfl⟩ | ⟨v, rfl⟩ := hi
  all_goals exact ⟨_, (Host.Outcome.next.inj h).symm⟩

/-- WSEG in range: one entry of LIVE, then the flush (43_buffer.md R160). -/
theorem exec_wseg_inRange {s : State} {pos : BitVec 3} (code : Byte) (h : pos.toNat < s.width) :
    exec (.wseg pos code) s = .next (flushed (writeLive pos.toNat code s)) := by
  simp only [exec, execWseg, posOk, h, decide_true, if_true, flush_eq]

/-- COMMIT in range: the copy into LIVE, then the flush (43_buffer.md R162). -/
theorem exec_commit_inRange {s : State} {len pos : BitVec 3} (hp : pos.toNat < s.width)
    (hl : pos.toNat + len.toNat ≤ s.width) :
    exec (.commit len pos) s = .next (flushed (copyScratch len.toNat pos.toNat s)) := by
  simp only [exec, execCommit, rangeOk, hp, hl, decide_true, Bool.and_true, if_true, flush_eq]

/-- CLR: LIVE cleared, then the flush (43_buffer.md R164). -/
theorem exec_clr (s : State) : exec .clr s = .next (flushed (clearLive s)) := by
  simp only [exec, execClr, flush_eq]

/-- INIT 1: both lines released, LIVE cleared, then the flush (43_buffer.md R172). -/
theorem exec_init_true (s : State) :
    exec (.init true) s = .next (flushed (clearLive
      { s with clkDrv := false, dioDrv := false, tr := s.tr ++ [.clkRel, .dioRel] })) := by
  simp only [exec, execInit, releaseLines_eq, if_true, flush_eq]

/-- WSEG, COMMIT and CLR in range each flush a state that differs from the old one in LIVE alone. -/
theorem writer_flushes {i : Instr} {s t : State}
    (hi : (∃ pos code, i = .wseg pos code) ∨ (∃ len pos, i = .commit len pos) ∨ i = .clr)
    (hr : ¬ OutOfRange s.width i) (h : exec i s = .next t) : ∃ l, t = flushed { s with live := l } := by
  obtain ⟨pos, code, rfl⟩ | ⟨len, pos, rfl⟩ | rfl := hi
  · rw [exec_wseg_inRange code (not_le.mp hr)] at h
    exact ⟨_, (Host.Outcome.next.inj h).symm⟩
  · obtain ⟨hp, hl⟩ := not_or.mp hr
    rw [exec_commit_inRange (not_le.mp hp) (not_lt.mp hl), copyScratch_eq] at h
    exact ⟨_, (Host.Outcome.next.inj h).symm⟩
  · rw [exec_clr, clearLive_eq] at h
    exact ⟨_, (Host.Outcome.next.inj h).symm⟩

/-- A flush sends the buffer it leaves: it changes neither LIVE nor FLIP. -/
@[simp] theorem wireData_flushed (s : State) : wireData (flushed s) = wireData s := rfl

/-- The trace a flush leaves after LIVE was written: only the data is of the written LIVE. -/
theorem flushed_withLive_tr (l : List Byte) (s : State) :
    (flushed { s with live := l }).tr =
      s.tr ++ flushEvents s.cfg s.answer (wireData (flushed { s with live := l })) s.bright := by
  rw [wireData_flushed]
  rfl

/-- Settles O51: a reader only responds, and a writer flushes a state in which it wrote LIVE alone. -/
theorem readersOnlyRespondAndWritersFlush : Obligations.ReadersOnlyRespondAndWritersFlush := by
  unfold Obligations.ReadersOnlyRespondAndWritersFlush
  refine ⟨fun i s t hi h => ?_, fun i s t hi hr h => ?_, fun s t h => ?_⟩
  · obtain ⟨r, rfl⟩ := reader_responds hi h
    rfl
  · obtain ⟨l, rfl⟩ := writer_flushes hi hr h
    exact flushed_withLive_tr l s
  · rw [exec_init_true, clearLive_eq] at h
    rw [← Host.Outcome.next.inj h]
    exact flushed_withLive_tr _ _

end Sys2Proof.Machine

/-! ## Proofs: the flush without its acknowledgements, and its length (20_memory.md R60, 43_buffer.md R156) -/

namespace Sys2Proof.Machine

/-! The answers change nothing of a trace but its samples and the drive after each, whatever follows. -/

theorem stripAck_byteEvents_congr (p : AckDrivePolicy) (b : Byte) (a c : Level) {es es' : List Event}
    (h : stripAck es = stripAck es') : stripAck (byteEvents p b a ++ es) = stripAck (byteEvents p b c ++ es') := by
  simp only [byteEvents, List.append_assoc, stripAck_slotEvents, stripAck_ackEvents, h]

theorem stripAck_bytesEvents_congr (p : AckDrivePolicy) (f g : Nat → Level) (k : Nat) (bs : List Byte)
    {es es' : List Event} (h : stripAck es = stripAck es') :
    stripAck (bytesEvents p f k bs ++ es) = stripAck (bytesEvents p g k bs ++ es') := by
  induction bs generalizing k with
  | nil => exact h
  | cons b bs ih =>
    simp only [bytesEvents, List.append_assoc]
    exact stripAck_byteEvents_congr p b _ _ (ih (k + 1))

theorem stripAck_frameEvents_congr (p : AckDrivePolicy) (f g : Nat → Level) (k : Nat) (bs : List Byte)
    {es es' : List Event} (h : stripAck es = stripAck es') :
    stripAck (frameEvents p f k bs ++ es) = stripAck (frameEvents p g k bs ++ es') := by
  have hstop : stripAck ([.dioLo, .wait, .clkRel, .wait, .dioRel, .wait] ++ es) =
      stripAck ([.dioLo, .wait, .clkRel, .wait, .dioRel, .wait] ++ es') := by
    simp only [List.cons_append, List.nil_append, stripAck, h]
  have hbytes := stripAck_bytesEvents_congr p f g k bs hstop
  simp only [frameEvents, List.append_assoc]
  simpa only [List.cons_append, List.nil_append, stripAck, List.cons.injEq, true_and] using hbytes

/-- Without its acknowledgements a flush depends on the parameters, the data and BRIGHT alone. -/
theorem stripAck_flushEvents (c : Config) (f g : Nat → Level) (data : List Byte) (bright : BitVec 4) :
    stripAck (flushEvents c f data bright) = stripAck (flushEvents c g data bright) := by
  have hlast := stripAck_frameEvents_congr c.ackDrivePolicy f g (data.length + 2)
    [c.cmdDisplay ||| bright.setWidth 8] (rfl : stripAck [] = stripAck [])
  simp only [List.append_nil] at hlast
  simp only [flushEvents, List.append_assoc]
  exact stripAck_frameEvents_congr _ f g _ _ (stripAck_frameEvents_congr _ f g _ _ hlast)

/-! Sizes: 49 events a byte and 8 a frame, and one drive for each sample the policy drives after. -/

theorem drivesIn_byteEvents (p : AckDrivePolicy) (b : Byte) (a : Level) :
    drivesIn p (byteEvents p b a) = drivesIn p [.sample a] := by
  cases p <;> simp [drivesIn, count_sample_byteEvents, List.count_singleton]

theorem length_bytesEvents (p : AckDrivePolicy) (f : Nat → Level) (k : Nat) (bs : List Byte) :
    (bytesEvents p f k bs).length = 49 * bs.length + drivesIn p (bytesEvents p f k bs) := by
  induction bs generalizing k with
  | nil => cases p <;> rfl
  | cons b bs ih =>
    simp only [bytesEvents, List.length_append, List.length_cons, drivesIn_append, length_byteEvents,
      drivesIn_byteEvents, ih]
    omega

theorem length_frameEvents (p : AckDrivePolicy) (f : Nat → Level) (k : Nat) (bs : List Byte) :
    (frameEvents p f k bs).length = 8 + 49 * bs.length + drivesIn p (frameEvents p f k bs) := by
  have hstart : drivesIn p [.dioLo, .wait] = 0 := by cases p <;> rfl
  have hstop : drivesIn p [.dioLo, .wait, .clkRel, .wait, .dioRel, .wait] = 0 := by cases p <;> rfl
  simp only [frameEvents, List.length_append, drivesIn_append, length_bytesEvents, hstart, hstop, List.length_cons,
    List.length_nil]
  omega

/-- The whole flush: three frames and N + 3 bytes. -/
theorem length_flushEvents (c : Config) (f : Nat → Level) (data : List Byte) (bright : BitVec 4) :
    (flushEvents c f data bright).length =
      24 + 49 * (data.length + 3) + drivesIn c.ackDrivePolicy (flushEvents c f data bright) := by
  simp only [flushEvents, List.length_append, drivesIn_append, length_frameEvents, List.length_cons, List.length_nil]
  omega

end Sys2Proof.Machine

/-! ## Proofs: a repeated WSEG (20_memory.md R60) -/

namespace Sys2Proof.Machine

theorem newEvents_of_append {s t : State} {es : List Event} (h : t.tr = s.tr ++ es) : newEvents s t = es := by
  rw [newEvents, h, List.drop_left]

/-- The second of two equal writes changes nothing, a flush between them or not. -/
theorem writeLive_flushed_writeLive (k : Nat) (v : Byte) (s : State) :
    writeLive k v (flushed (writeLive k v s)) = flushed (writeLive k v s) := by
  have hset : (flushed (writeLive k v s)).live.set k v = (flushed (writeLive k v s)).live := List.set_set ..
  rw [writeLive, hset]

/-- Settles O52: the second WSEG writes what is there already, so it flushes the same data again. -/
theorem repeatedWsegFlushesAgain : Obligations.RepeatedWsegFlushesAgain := by
  unfold Obligations.RepeatedWsegFlushesAgain
  intro s t u pos code hp ht hu
  have hs : t = flushed (writeLive pos.toNat code s) :=
    (Host.Outcome.next.inj ((exec_wseg_inRange code hp).symm.trans ht)).symm
  have hcfg : t.cfg = s.cfg := by rw [hs]; rfl
  have hwidth : t.width = s.width := congrArg (·.width.count) hcfg
  have hut : u = flushed t := by
    rw [exec_wseg_inRange code (hwidth ▸ hp)] at hu
    rw [← Host.Outcome.next.inj hu, hs, writeLive_flushed_writeLive]
  have hfirst : newEvents s t = flushEvents s.cfg s.answer (wireData t) s.bright := by
    rw [hs]
    exact newEvents_of_append (flushed_withLive_tr _ s)
  have hsecond : newEvents t u = flushEvents s.cfg t.answer (wireData t) s.bright := by
    have hbright : t.bright = s.bright := by rw [hs]; rfl
    rw [hut, ← hcfg, ← hbright]
    exact newEvents_of_append rfl
  refine ⟨by rw [hut]; rfl, ?_, ?_⟩
  · rw [hfirst, hsecond]
    exact stripAck_flushEvents ..
  · rw [hsecond, length_flushEvents, wireData_length, hwidth]
    exact Nat.le_add_right ..

end Sys2Proof.Machine

/-! ## Proofs: a word decodes as a row exactly when match and mask say so (30_encoding.md R79) -/

namespace Sys2Proof.Laws

@[simp] theorem instrOf_mnemonic (w : Word) (m : Mnemonic) : (instrOf w m).mnemonic = m := by
  cases m <;> rfl

/-- Every mnemonic has its row in the table. -/
theorem fixed_mem_opcodeTable (m : Mnemonic) :
    ⟨m, (MatchesRow.fixed m).1, (MatchesRow.fixed m).2⟩ ∈ opcodeTable := by
  cases m <;> decide

/-- The table has no other row. -/
theorem fixed_of_mem_opcodeTable {r : Row} (hr : r ∈ opcodeTable) :
    MatchesRow.fixed r.mnemonic = (r.pat, r.mask) := by
  revert r
  decide

/-- R79 for every row at once: a word decodes as a command iff it matches the row of the command's mnemonic and the
operands are the fields that row reads. -/
theorem decode_eq_instr_iff (w : Word) (i : Instr) :
    decode w = .instr i ↔
      w &&& (MatchesRow.fixed i.mnemonic).2 = (MatchesRow.fixed i.mnemonic).1 ∧ i = instrOf w i.mnemonic := by
  constructor
  · intro h
    obtain ⟨r, hr, hw, rfl⟩ := hits_of_decode h
    rw [instrOf_mnemonic, fixed_of_mem_opcodeTable hr]
    exact ⟨beq_iff_eq.mp hw, rfl⟩
  · rintro ⟨hw, hi⟩
    have hd := decode_of_hits (fixed_mem_opcodeTable i.mnemonic) (beq_iff_eq.mpr hw)
    exact hd.trans (congrArg Decoded.instr hi.symm)

/-- Settles O3: each row is `decode_eq_instr_iff`, its operands compared one by one. -/
theorem decodesAsARowIffMatchAndMask : Obligations.DecodesAsARowIffMatchAndMask := by
  unfold Obligations.DecodesAsARowIffMatchAndMask
  intro w
  have row := decode_eq_instr_iff w
  refine ⟨fun v => ?encd, fun v => ?enca, fun pos code => ?wscr, fun pos code => ?wseg, fun len pos => ?commit, ?clr,
    ?rdbuf, fun b => ?sflip, ?gflip, fun level on => ?sbrt, fun clr => ?init, ?bstart, ?bstop, fun b => ?bwrite⟩
  case encd => exact (row (.encd v)).trans (and_congr_right' (.of_eq (Instr.encd.injEq ..)))
  case enca => exact (row (.enca v)).trans (and_congr_right' (.of_eq (Instr.enca.injEq ..)))
  case wscr => exact (row (.wscr pos code)).trans (and_congr_right' (.of_eq (Instr.wscr.injEq ..)))
  case wseg => exact (row (.wseg pos code)).trans (and_congr_right' (.of_eq (Instr.wseg.injEq ..)))
  case commit => exact (row (.commit len pos)).trans (and_congr_right' (.of_eq (Instr.commit.injEq ..)))
  case clr => exact (row .clr).trans (and_iff_left rfl)
  case rdbuf => exact (row .rdbuf).trans (and_iff_left rfl)
  case sflip => exact (row (.sflip b)).trans (and_congr_right' (.of_eq (Instr.sflip.injEq ..)))
  case gflip => exact (row .gflip).trans (and_iff_left rfl)
  case sbrt => exact (row (.sbrt level on)).trans (and_congr_right' (.of_eq (Instr.sbrt.injEq ..)))
  case init => exact (row (.init clr)).trans (and_congr_right' (.of_eq (Instr.init.injEq ..)))
  case bstart => exact (row .bstart).trans (and_iff_left rfl)
  case bstop => exact (row .bstop).trans (and_iff_left rfl)
  case bwrite => exact (row (.bwrite b)).trans (and_congr_right' (.of_eq (Instr.bwrite.injEq ..)))

end Sys2Proof.Laws

/-! ## Proofs: which commands respond, and with what (30_encoding.md R88) -/

namespace Sys2Proof.Machine

/-- A command out of range records RANGE and its own word, and does nothing else (60_exceptions.md R191). -/
theorem exec_outOfRange {i : Instr} {s : State} (h : OutOfRange s.width i) :
    exec i s = .next (raiseFault .range (encode i) s) := by
  cases i with
  | wscr pos code => exact if_neg (by simpa [posOk, OutOfRange] using h)
  | wseg pos code => exact if_neg (by simpa [posOk, OutOfRange] using h)
  | commit len pos => exact if_neg (by simpa [rangeOk, OutOfRange, imp_iff_not_or] using h)
  | _ => exact False.elim h

/-- WSCR in range: one entry of SCR (43_buffer.md R158). -/
theorem exec_wscr_inRange {s : State} {pos : BitVec 3} (code : Byte) (h : pos.toNat < s.width) :
    exec (.wscr pos code) s = .next (writeScr pos.toNat code s) := by
  simp only [exec, execWscr, posOk, h, decide_true, if_true]

@[simp] theorem flushed_resps (s : State) : (flushed s).resps = s.resps := rfl

@[simp] theorem writeByte_resps (b : Byte) (s : State) : (writeByte b s).resps = s.resps := by
  rw [writeByte_eq]

@[simp] theorem writeByte_ackLast (b : Byte) (s : State) : (writeByte b s).ackLast = (s.answer 0 == .low) := by
  rw [writeByte_eq]

/-- Read entry by entry, an exact buffer is LIVE itself. -/
theorem map_readLive_range {s : State} (h : s.live.length = s.width) :
    (List.range s.width).map (readLive s) = s.live := by
  rw [← h]
  apply List.ext_getElem (by simp)
  intro k _ hk
  simp [readLive, hk]

theorem wscr_resps {s t : State} {pos : BitVec 3} {code : Byte} (h : exec (.wscr pos code) s = .next t) :
    t.resps = s.resps := by
  by_cases hr : OutOfRange s.width (.wscr pos code)
  · rw [exec_outOfRange hr] at h
    rw [← Host.Outcome.next.inj h, raiseFault_resps]
  · rw [exec_wscr_inRange code (not_le.mp hr)] at h
    rw [← Host.Outcome.next.inj h, writeScr_resps]

/-- A command that writes LIVE gives no response, in range or not: "no display-level command returns an error or an
acknowledgement". -/
theorem writer_resps {i : Instr} {s t : State}
    (hi : (∃ pos code, i = .wseg pos code) ∨ (∃ len pos, i = .commit len pos) ∨ i = .clr)
    (h : exec i s = .next t) : t.resps = s.resps := by
  by_cases hr : OutOfRange s.width i
  · rw [exec_outOfRange hr] at h
    rw [← Host.Outcome.next.inj h, raiseFault_resps]
  · obtain ⟨l, rfl⟩ := writer_flushes hi hr h
    rw [flushed_resps]

theorem init_resps {s t : State} {clr : Bool} (h : exec (.init clr) s = .next t) : t.resps = s.resps := by
  cases clr with
  | false => rw [← Host.Outcome.next.inj h, if_neg Bool.false_ne_true, releaseLines_eq]
  | true =>
    rw [exec_init_true, clearLive_eq] at h
    rw [← Host.Outcome.next.inj h, flushed_resps]

/-- Settles O24, command by command; the responding ones each append their one response. -/
theorem responsesAreThoseOfTheRule : Obligations.ResponsesAreThoseOfTheRule := by
  unfold Obligations.ResponsesAreThoseOfTheRule
  intro i s t h
  cases i with
  | encd v => exact ⟨encDigit s.cfg v, by rw [← Host.Outcome.next.inj h, respond_resps]⟩
  | enca v => exact ⟨encAscii s.cfg v, by rw [← Host.Outcome.next.inj h, respond_resps]⟩
  | gflip => rw [← Host.Outcome.next.inj h, respond_resps]
  | rdbuf =>
    intro hlen
    rw [← Host.Outcome.next.inj h, respond_resps, map_readLive_range hlen]
  | bwrite b => rw [← Host.Outcome.next.inj h, respond_resps, writeByte_resps, writeByte_ackLast]
  | wscr pos code => exact wscr_resps h
  | wseg pos code => exact writer_resps (.inl ⟨pos, code, rfl⟩) h
  | commit len pos => exact writer_resps (.inr (.inl ⟨len, pos, rfl⟩)) h
  | clr => exact writer_resps (.inr (.inr rfl)) h
  | sflip b => rw [← Host.Outcome.next.inj h, setFlip_resps]
  | sbrt level on => rw [← Host.Outcome.next.inj h, setBright_resps]
  | init clr => exact init_resps h
  | bstart => rw [← Host.Outcome.next.inj h, startCond_eq]
  | bstop => rw [← Host.Outcome.next.inj h, stopCond_eq]

end Sys2Proof.Machine

/-! ## Proofs: no step writes a table or a parameter (41_encoder.md R109) -/

namespace Sys2Proof.Machine

@[simp] theorem flushed_cfg (s : State) : (flushed s).cfg = s.cfg := rfl

@[simp] theorem writeByte_cfg (b : Byte) (s : State) : (writeByte b s).cfg = s.cfg := by
  rw [writeByte_eq]

/-- No command writes a parameter: none of the shapes a next state can have touches `cfg`. -/
theorem exec_cfg {i : Instr} {s t : State} (h : exec i s = .next t) : t.cfg = s.cfg := by
  obtain ⟨r, rfl⟩ | ⟨k, v, rfl⟩ | ⟨w, rfl⟩ | ⟨b, rfl⟩ | ⟨v, rfl⟩ | ⟨l, -, rfl⟩ | ⟨l, -, rfl⟩ | rfl | rfl | rfl |
    ⟨b, rfl⟩ := exec_shape h
  · exact respond_cfg r s
  · exact writeScr_cfg k v s
  · exact raiseFault_cfg .range w s
  · exact setFlip_cfg b s
  · exact setBright_cfg v s
  · exact flushed_cfg _
  · exact flushed_cfg _
  · rfl
  · rw [startCond_eq]
  · rw [stopCond_eq]
  · rw [respond_cfg, writeByte_cfg]

/-- No step writes a parameter. -/
theorem step_cfg {s t : State} (h : step s = .next t) : t.cfg = s.cfg := by
  obtain ⟨-, ⟨-, rfl⟩ | ⟨w, rest, -, ⟨i, -, hi⟩ | ⟨-, rfl⟩⟩⟩ := step_shape h
  · rfl
  · exact exec_cfg (s := { s with cmds := rest }) hi
  · exact raiseFault_cfg .illegalCommand w _

/-- Settles O21: a lookup reads nothing but the parameters and its input, and no step writes a parameter. -/
theorem tablesNeverChange : Obligations.TablesNeverChange := by
  unfold Obligations.TablesNeverChange
  intro s t h
  have hcfg : t.cfg = s.cfg := step_cfg h
  exact ⟨hcfg, fun v => ⟨congrArg (encDigit · v) hcfg, congrArg (encAscii · v) hcfg⟩⟩

end Sys2Proof.Machine

/-! ## Proofs: the segment encoder (41_encoder.md R100 to R108) -/

namespace Sys2Proof.Laws

/-- The word of a command with one byte operand: its opcode with the operand in w[7:0] (30_encoding.md R71). -/
theorem byteWord_eq_or (op : BitVec 4) (v : Byte) : (op ++ 0#4 ++ v : Word) = (op ++ 0#12) ||| v.setWidth 16 := by
  have hop : (op ++ 0#12 : Word) = (op ++ 0#4 : Byte) ++ 0#8 := by
    revert op
    decide
  have hv : v.setWidth 16 = 0#8 ++ v := BitVec.setWidth_eq_append (by decide)
  rw [hop, hv, BitVec.or_append, BitVec.or_zero, BitVec.zero_or]

end Sys2Proof.Laws

namespace Sys2Proof.Machine

@[simp] theorem dotClear_iff (x : Byte) : dotClear x = true ↔ x.getLsbD 7 = false := by
  rw [dotClear, Bool.not_eq_true']

/-- The spec's constraints on the parameters, one by one (41_encoder.md R101, R105, R107, 00_scope.md R9). -/
theorem config_wf_iff (c : Config) :
    c.wf = true ↔ c.digitTable.length = 16 ∧ c.asciiTable.length = 96 ∧ (∀ x ∈ c.digitTable, x.getLsbD 7 = false) ∧
      (∀ x ∈ c.asciiTable, x.getLsbD 7 = false) ∧ c.degreeCode.getLsbD 7 = false ∧ c.cmdDisplay &&& 0x0F#8 = 0#8 := by
  simp only [Config.wf, Bool.and_eq_true, beq_iff_eq, List.all_eq_true, dotClear_iff, and_assoc]

/-- Inside the table, the lookup with a default gives the entry. -/
theorem getElem?_eq_some_getD {l : List Byte} {k : Nat} (h : k < l.length) (d : Byte) : l[k]? = some (l.getD k d) := by
  rw [List.getElem?_eq_getElem h, List.getD_eq_getElem l d h]

/-- "A model's digit lookup must satisfy it for every one of the 256 inputs" (41_encoder.md R103): the index
`v mod 16` falls inside a table of 16. -/
theorem encDigit_mem_table {c : Config} (h : c.wf = true) (v : Byte) :
    c.digitTable[v.toNat % 16]? = some (encDigit c v) := by
  obtain ⟨hlen, -⟩ := (config_wf_iff c).mp h
  have hidx : v.toNat % 16 < c.digitTable.length := by omega
  exact getElem?_eq_some_getD hidx _

theorem encDigit_dotClear {c : Config} (h : c.wf = true) (v : Byte) : (encDigit c v).getLsbD 7 = false := by
  obtain ⟨-, -, hdot, -⟩ := (config_wf_iff c).mp h
  exact hdot _ (List.mem_of_getElem? (encDigit_mem_table h v))

/-! `encAscii`, one equation per range of its input (41_encoder.md R104). -/

theorem encAscii_degree (c : Config) {v : Byte} (h : v.toNat = 176) : encAscii c v = c.degreeCode := if_pos h

theorem encAscii_blank (c : Config) {v : Byte} (h : v.toNat < 32 ∨ (127 < v.toNat ∧ v.toNat ≠ 176)) :
    encAscii c v = 0x00#8 := by
  have hdeg : v.toNat ≠ 176 := by omega
  have hout : v.toNat < 32 ∨ v.toNat > 127 := h.imp_right And.left
  rw [encAscii, if_neg hdeg, if_pos hout]

theorem encAscii_mem_table {c : Config} (hc : c.wf = true) {v : Byte} (h : 32 ≤ v.toNat ∧ v.toNat ≤ 127) :
    c.asciiTable[v.toNat - 32]? = some (encAscii c v) := by
  obtain ⟨-, hlen, -⟩ := (config_wf_iff c).mp hc
  have hdeg : v.toNat ≠ 176 := by omega
  have hin : ¬ (v.toNat < 32 ∨ v.toNat > 127) := by omega
  have hidx : v.toNat - 32 < c.asciiTable.length := by omega
  rw [encAscii, if_neg hdeg, if_neg hin]
  exact getElem?_eq_some_getD hidx _

/-- The degree pattern, the blank and every glyph have the dot clear (41_encoder.md R108). -/
theorem encAscii_dotClear {c : Config} (h : c.wf = true) (v : Byte) : (encAscii c v).getLsbD 7 = false := by
  obtain ⟨-, -, -, hdot, hdegree, -⟩ := (config_wf_iff c).mp h
  have hranges : v.toNat = 176 ∨ (v.toNat < 32 ∨ (127 < v.toNat ∧ v.toNat ≠ 176)) ∨ (32 ≤ v.toNat ∧ v.toNat ≤ 127) := by
    omega
  obtain hv | hv | hv := hranges
  · rw [encAscii_degree c hv, hdegree]
  · rw [encAscii_blank c hv]
    rfl
  · exact hdot _ (List.mem_of_getElem? (encAscii_mem_table h hv))

/-- Settles O25: under the spec's constraints the digit is an entry of the table. -/
theorem encdRespondsTheDigit : Obligations.EncdRespondsTheDigit := by
  unfold Obligations.EncdRespondsTheDigit
  intro s v h
  exact ⟨Laws.byteWord_eq_or 0x1#4 v, encDigit s.cfg v, encDigit_mem_table h v, encDigit_dotClear h v, rfl⟩

/-- Settles O26: the glyph range by range. -/
theorem encaRespondsTheGlyph : Obligations.EncaRespondsTheGlyph := by
  unfold Obligations.EncaRespondsTheGlyph
  intro s v h
  exact ⟨Laws.byteWord_eq_or 0x2#4 v, encAscii s.cfg v, rfl, encAscii_dotClear h v, encAscii_degree s.cfg,
    encAscii_blank s.cfg, encAscii_mem_table h⟩

end Sys2Proof.Machine

/-! ## Proofs: BSTART and BSTOP (42_framer.md R130, R131) -/

namespace Sys2Proof.Machine

/-- Settles O31: BSTART is the framer's start condition. -/
theorem bstartSendsAStart : Obligations.BstartSendsAStart := by
  unfold Obligations.BstartSendsAStart
  exact ⟨rfl, fun s => congrArg Host.Outcome.next (startCond_eq s)⟩

/-- Settles O32: BSTOP is the framer's stop condition. -/
theorem bstopSendsAStop : Obligations.BstopSendsAStop := by
  unfold Obligations.BstopSendsAStop
  exact ⟨rfl, fun s => congrArg Host.Outcome.next (stopCond_eq s)⟩

end Sys2Proof.Machine

/-! ## Proofs: the peripheral's answers change only the acknowledgement (42_framer.md R129)

A command either reads no answer, and so commutes with replacing them, or flushes a state it built without reading one, or
is BWRITE. A flush and a byte then differ in their acknowledgements alone. -/

namespace Sys2Proof.Machine

/-- `s` with other answers of the peripheral to the samples to come. -/
def withAnswers (answers : List Level) (n : Nat) (s : State) : State := { s with dioIn := answers, draws := n }

@[simp] theorem emitAll_withAnswers (es : List Event) (answers : List Level) (n : Nat) (s : State) :
    emitAll es (withAnswers answers n s) = withAnswers answers n (emitAll es s) := by
  rw [emitAll_eq, emitAll_eq]
  rfl

@[simp] theorem copyScratch_withAnswers (len pos : Nat) (answers : List Level) (n : Nat) (s : State) :
    copyScratch len pos (withAnswers answers n s) = withAnswers answers n (copyScratch len pos s) := by
  rw [copyScratch_eq, copyScratch_eq]
  rfl

@[simp] theorem clearLive_withAnswers (answers : List Level) (n : Nat) (s : State) :
    clearLive (withAnswers answers n s) = withAnswers answers n (clearLive s) := by
  rw [clearLive_eq, clearLive_eq]
  rfl

/-- From `s` and from `s` with other answers, the command flushes one state `v` with the respective answers; what it
emitted before the flush holds no sample. -/
def FlushesUnderAnswers (i : Instr) (s t : State) (answers : List Level) (n : Nat) : Prop :=
  ∃ v es, t = flushed v ∧ exec i (withAnswers answers n s) = .next (flushed (withAnswers answers n v)) ∧
    v.tr = s.tr ++ es ∧ ∀ fs, stripAck (es ++ fs) = es ++ stripAck fs

/-- A flush over a written LIVE, with nothing emitted before it. -/
theorem flushesUnderAnswers_of_tr_eq {i : Instr} {s t v : State} {answers : List Level} {n : Nat}
    (h : exec i s = .next t) (hs : exec i s = .next (flushed v))
    (ha : exec i (withAnswers answers n s) = .next (flushed (withAnswers answers n v))) (htr : v.tr = s.tr) :
    FlushesUnderAnswers i s t answers n :=
  ⟨v, [], Host.Outcome.next.inj (h.symm.trans hs), ha, by rw [htr, List.append_nil], fun _ => rfl⟩

/-- What a command does under other answers: the same without reading one, or the same flush, or it is BWRITE. -/
theorem exec_withAnswers {i : Instr} {s t : State} (h : exec i s = .next t) (answers : List Level) (n : Nat) :
    exec i (withAnswers answers n s) = .next (withAnswers answers n t) ∨
      FlushesUnderAnswers i s t answers n ∨ ∃ b, i = .bwrite b := by
  by_cases hr : OutOfRange s.width i
  · rw [exec_outOfRange hr] at h
    rw [exec_outOfRange (s := withAnswers answers n s) hr, ← Host.Outcome.next.inj h]
    exact .inl rfl
  cases i with
  | wscr pos code =>
    have hp : pos.toNat < s.width := not_le.mp hr
    rw [exec_wscr_inRange code hp] at h
    rw [exec_wscr_inRange (s := withAnswers answers n s) code hp, ← Host.Outcome.next.inj h]
    exact .inl rfl
  | wseg pos code =>
    have hp : pos.toNat < s.width := not_le.mp hr
    exact .inr (.inl (flushesUnderAnswers_of_tr_eq h (exec_wseg_inRange code hp)
      (exec_wseg_inRange (s := withAnswers answers n s) code hp) rfl))
  | commit len pos =>
    obtain ⟨hp, hl⟩ := not_or.mp hr
    refine .inr (.inl (flushesUnderAnswers_of_tr_eq h (exec_commit_inRange (not_le.mp hp) (not_lt.mp hl)) ?_
      (by rw [copyScratch_eq])))
    rw [exec_commit_inRange (s := withAnswers answers n s) (not_le.mp hp) (not_lt.mp hl), copyScratch_withAnswers]
  | clr =>
    refine .inr (.inl (flushesUnderAnswers_of_tr_eq h (exec_clr s) ?_ (by rw [clearLive_eq])))
    rw [exec_clr, clearLive_withAnswers]
  | init clr =>
    cases clr with
    | false =>
      rw [← Host.Outcome.next.inj h]
      exact .inl (congrArg Host.Outcome.next (emitAll_withAnswers [.clkRel, .dioRel] answers n s))
    | true =>
      refine .inr (.inl ⟨_, [.clkRel, .dioRel], Host.Outcome.next.inj (h.symm.trans (exec_init_true s)), ?_,
        by rw [clearLive_eq], fun _ => rfl⟩)
      rw [exec_init_true, ← clearLive_withAnswers]
      rfl
  | bwrite b => exact .inr (.inr ⟨b, rfl⟩)
  | bstart | bstop =>
    rw [← Host.Outcome.next.inj h]
    exact .inl (congrArg Host.Outcome.next (emitAll_withAnswers _ answers n s))
  | encd v | enca v | rdbuf | sflip b | gflip | sbrt level on =>
    rw [← Host.Outcome.next.inj h]
    exact .inl rfl

/-- Without their acknowledgements, the events up to the end of a flush do not depend on the answers. -/
theorem stripAck_newEvents_flushed {s v : State} {es : List Event} (htr : v.tr = s.tr ++ es)
    (hes : ∀ fs, stripAck (es ++ fs) = es ++ stripAck fs) (answers : List Level) (n : Nat) :
    stripAck (newEvents s (flushed (withAnswers answers n v))) = stripAck (newEvents s (flushed v)) := by
  have hnew : ∀ w : State, w.tr = v.tr →
      newEvents s (flushed w) = es ++ flushEvents w.cfg w.answer (wireData w) w.bright := fun w hw =>
    newEvents_of_append (by rw [← List.append_assoc, ← htr, ← hw]; rfl)
  rw [hnew (withAnswers answers n v) rfl, hnew v rfl, hes, hes]
  exact congrArg (es ++ ·) (stripAck_flushEvents ..)

/-- BWRITE's events are those of its byte. -/
theorem newEvents_writeByte (b : Byte) (s : State) :
    newEvents s (writeByte b s) = byteEvents s.cfg.ackDrivePolicy b (s.answer 0) :=
  newEvents_of_append (by rw [writeByte_eq])

/-- Without its acknowledgement, a byte does not depend on the answers. -/
theorem stripAck_newEvents_writeByte (b : Byte) (answers : List Level) (n : Nat) (s : State) :
    stripAck (newEvents s (writeByte b (withAnswers answers n s))) = stripAck (newEvents s (writeByte b s)) := by
  have hu : newEvents s (writeByte b (withAnswers answers n s)) = byteEvents s.cfg.ackDrivePolicy b _ :=
    newEvents_writeByte b (withAnswers answers n s)
  rw [hu, newEvents_writeByte]
  simpa only [List.append_nil] using stripAck_byteEvents s.cfg.ackDrivePolicy b _ _ []

/-- Settles O48, along the three ways of `exec_withAnswers`. -/
theorem answersChangeOnlyTheAcknowledgement : Obligations.AnswersChangeOnlyTheAcknowledgement := by
  unfold Obligations.AnswersChangeOnlyTheAcknowledgement
  intro i s t answers n h
  obtain hu | ⟨v, es, rfl, hu, htr, hes⟩ | ⟨b, rfl⟩ := exec_withAnswers h answers n
  · exact ⟨_, hu, rfl, rfl, rfl, rfl, rfl, rfl, rfl, fun _ => ⟨rfl, rfl⟩⟩
  · exact ⟨_, hu, rfl, rfl, rfl, rfl, rfl, rfl, stripAck_newEvents_flushed htr hes answers n, fun _ => ⟨rfl, rfl⟩⟩
  · have hevents := stripAck_newEvents_writeByte b answers n s
    rw [← Host.Outcome.next.inj h]
    refine ⟨_, rfl, ?_, ?_, ?_, ?_, ?_, ?_, hevents, fun hb => absurd rfl (hb b)⟩
    all_goals
      rw [writeByte_eq, writeByte_eq]
      rfl

end Sys2Proof.Machine

/-! ## Proofs: the mirror of one code (43_buffer.md R150, R152, R175)

Every fact about `flipSeg` is read off its bits. -/

namespace Sys2Proof.Machine

/-- Bit by bit: A–C and D–F change places, G stays, the dot is not carried. -/
theorem getLsbD_flipSeg (x : Byte) (i : Nat) :
    (flipSeg x).getLsbD i =
      if i < 3 then x.getLsbD (i + 3) else if i < 6 then x.getLsbD (i - 3) else decide (i = 6) && x.getLsbD i := by
  by_cases hi : i < 8
  · interval_cases i <;> simp [flipSeg]
  · simp [BitVec.getLsbD_of_ge _ i (not_lt.mp hi), show ¬ i < 3 by omega, show ¬ i < 6 by omega]

/-- Masking with 0x7F clears the dot and keeps every segment. -/
theorem getLsbD_and_segments (x : Byte) (i : Nat) :
    (x &&& 0x7F#8).getLsbD i = (decide (i < 7) && x.getLsbD i) := by
  by_cases hi : i < 8
  · interval_cases i <;> simp
  · simp [BitVec.getLsbD_of_ge _ i (not_lt.mp hi)]

/-- Two codes are equal when their segments and their dots are. -/
theorem byte_eq_of_segments_of_dot {x y : Byte} (hseg : x &&& 0x7F#8 = y &&& 0x7F#8)
    (hdot : x.getLsbD 7 = y.getLsbD 7) : x = y := by
  apply BitVec.eq_of_getLsbD_eq
  intro i hi
  obtain h | rfl : i < 7 ∨ i = 7 := by omega
  · simpa only [getLsbD_and_segments, h, decide_true, Bool.true_and] using congrArg (BitVec.getLsbD · i) hseg
  · exact hdot

theorem flipSeg_dot (x : Byte) : (flipSeg x).getLsbD 7 = false := getLsbD_flipSeg x 7

/-- The mirror does not read the dot. -/
theorem flipSeg_and_segments (x : Byte) : flipSeg (x &&& 0x7F#8) = flipSeg x := by
  apply BitVec.eq_of_getLsbD_eq
  intro i hi
  simp only [getLsbD_flipSeg, getLsbD_and_segments]
  interval_cases i <;> rfl

theorem flipSeg_congr {x y : Byte} (h : x &&& 0x7F#8 = y &&& 0x7F#8) : flipSeg x = flipSeg y := by
  rw [← flipSeg_and_segments x, h, flipSeg_and_segments]

theorem flipSeg_flipSeg (x : Byte) : flipSeg (flipSeg x) = x &&& 0x7F#8 := by
  apply BitVec.eq_of_getLsbD_eq
  intro i hi
  simp only [getLsbD_flipSeg, getLsbD_and_segments]
  interval_cases i <;> rfl

/-- The mirror carries segments alone. -/
theorem flipSeg_segments (x : Byte) : flipSeg x &&& 0x7F#8 = flipSeg x := by
  rw [← flipSeg_flipSeg, flipSeg_flipSeg x, flipSeg_and_segments]

/-- Settles O27, bit by bit. -/
theorem flipSegRotatesTheSegments : Obligations.FlipSegRotatesTheSegments := by
  unfold Obligations.FlipSegRotatesTheSegments
  intro x
  refine ⟨?upper, ?lower, getLsbD_flipSeg x 6, flipSeg_dot x⟩
  all_goals
    apply BitVec.eq_of_getLsbD_eq
    intro i hi
    simp only [BitVec.getLsbD_extractLsb', getLsbD_flipSeg]
    interval_cases i <;> rfl

end Sys2Proof.Machine

/-! ## Proofs: the orientation mux (43_buffer.md R151, R152, R154, R175)

A flipped byte is its segments, the mirror of one entry, and its dot, borrowed from another. -/

namespace Sys2Proof.Machine

/-- The dot of wire position k comes from LIVE[N−k−2] where there is such an entry. -/
theorem flipOut_dot (s : State) (k : Nat) :
    (flipOut s k).getLsbD 7 = (decide (k + 2 ≤ s.width) && (readLive s (s.width - k - 2)).getLsbD 7) := by
  rw [flipOut, BitVec.getLsbD_or, flipSeg_dot, Bool.false_or]
  by_cases hk : k + 2 ≤ s.width <;> simp [hk]

/-- The segments of wire position k come from LIVE[N−1−k]. -/
theorem flipOut_segments (s : State) (k : Nat) :
    flipOut s k &&& 0x7F#8 = flipSeg (readLive s (s.width - 1 - k)) := by
  have hdot : (if k + 2 ≤ s.width then readLive s (s.width - k - 2) &&& 0x80#8 else 0x00#8) &&& 0x7F#8 = 0x00#8 := by
    split
    · rw [BitVec.and_assoc]
      exact BitVec.and_zero
    · rfl
  rw [flipOut, BitVec.and_or_distrib_right, flipSeg_segments, hdot, BitVec.or_zero]

/-- The segments of LIVE[j] go to the mirrored wire position. -/
theorem flipOut_mirror_segments (s : State) {j : Nat} (hj : j < s.width) :
    flipOut s (s.width - 1 - j) &&& 0x7F#8 = flipSeg (readLive s j) := by
  rw [flipOut_segments, show s.width - 1 - (s.width - 1 - j) = j by omega]

/-- Unflipped, the flush sends the buffer as it is. -/
theorem wireData_unflipped {s : State} (hlen : s.live.length = s.width) (hflip : s.flip = false) :
    wireData s = s.live := by
  have hbyte : wireByte s = readLive s := funext fun k => by rw [wireByte, hflip, if_neg Bool.false_ne_true]
  rw [wireData, hbyte, map_readLive_range hlen]

theorem wireData_flipped {s : State} (hflip : s.flip = true) {k : Nat} (hk : k < s.width) :
    (wireData s)[k]? = some (flipOut s k) := by
  have hbyte : wireByte s k = flipOut s k := if_pos hflip
  rw [wireData, List.getElem?_map, List.getElem?_range hk, Option.map_some, hbyte]

/-- Settles O28: the spec's signed bound on the borrowed dot is `k + 2 ≤ N`. -/
theorem wireDataFollowsTheOrientation : Obligations.WireDataFollowsTheOrientation := by
  unfold Obligations.WireDataFollowsTheOrientation
  refine fun s => ⟨wireData_unflipped, fun hflip k hk => ?_⟩
  have hbound : 0 ≤ (s.width : Int) - k - 2 ↔ k + 2 ≤ s.width := by omega
  simp only [wireData_flipped hflip hk, hbound]
  rfl

/-- Settles O29: the mirror reads no dot, so the segments of LIVE[k] come back without it. -/
theorem flipTwiceKeepsTheSegments : Obligations.FlipTwiceKeepsTheSegments := by
  unfold Obligations.FlipTwiceKeepsTheSegments
  refine ⟨flipSeg_flipSeg, fun s k hk => ?_⟩
  rw [← flipSeg_and_segments, flipOut_mirror_segments s hk, flipSeg_flipSeg]

theorem writeLive_width (k : Nat) (v : Byte) (s : State) : (writeLive k v s).width = s.width := rfl

theorem readLive_writeLive_same {s : State} {k : Nat} (v : Byte) (hk : k < s.live.length) :
    readLive (writeLive k v s) k = v := by
  rw [readLive, writeLive_live, List.getD_eq_getElem?_getD, List.getElem?_set_self hk, Option.getD_some]

theorem readLive_writeLive_ne {k j : Nat} (v : Byte) (s : State) (h : k ≠ j) :
    readLive (writeLive k v s) j = readLive s j := by
  simp only [readLive, writeLive_live, List.getD_eq_getElem?_getD, List.getElem?_set_ne h]

/-- A write outside LIVE changes nothing. -/
theorem writeLive_outside {s : State} {k : Nat} (v : Byte) (hk : s.live.length ≤ k) : writeLive k v s = s := by
  rw [writeLive, List.set_eq_of_length_le hk]

/-- A code written over one with the same segments is read with the same segments. -/
theorem readLive_writeLive_segments {s : State} {k : Nat} {x : Byte}
    (hx : x &&& 0x7F#8 = readLive s k &&& 0x7F#8) (j : Nat) :
    readLive (writeLive k x s) j &&& 0x7F#8 = readLive s j &&& 0x7F#8 := by
  by_cases hj : k = j
  · subst hj
    by_cases hk : k < s.live.length
    · rw [readLive_writeLive_same x hk, hx]
    · rw [writeLive_outside x (not_lt.mp hk)]
  · rw [readLive_writeLive_ne x s hj]

/-- The dot of the last entry goes nowhere: the segments of any code in its place are sent the same. -/
theorem flipOut_ignores_last_dot (s : State) {x : Byte}
    (hx : x &&& 0x7F#8 = readLive s (s.width - 1) &&& 0x7F#8) (k : Nat) :
    flipOut (writeLive (s.width - 1) x s) k = flipOut s k := by
  apply byte_eq_of_segments_of_dot
  · rw [flipOut_segments, flipOut_segments, writeLive_width]
    exact flipSeg_congr (readLive_writeLive_segments hx _)
  · rw [flipOut_dot, flipOut_dot, writeLive_width]
    by_cases hk : k + 2 ≤ s.width
    · rw [readLive_writeLive_ne x s (by omega)]
    · rw [decide_eq_false hk, Bool.false_and, Bool.false_and]

/-- Settles O30, from the segments and the dot of a wire position. -/
theorem flippedDotsMoveOneToTheLeft : Obligations.FlippedDotsMoveOneToTheLeft := by
  unfold Obligations.FlippedDotsMoveOneToTheLeft
  intro s
  refine ⟨?last, fun j hj => ?moved, fun j => flipOut_mirror_segments s,
    fun x hx k _ => flipOut_ignores_last_dot s hx k, flipSeg_flipSeg⟩
  case last => rw [flipOut_dot, decide_eq_false (by omega), Bool.false_and]
  case moved =>
    rw [flipOut_dot, decide_eq_true (by omega), Bool.true_and, show s.width - (s.width - 2 - j) - 2 = j by omega]

end Sys2Proof.Machine

/-! ## Proofs: RDBUF, and what it reads after a writer (43_buffer.md R166, R174) -/

namespace Sys2Proof.Machine

/-- RDBUF on an exact buffer. -/
theorem exec_rdbuf {s : State} (h : s.live.length = s.width) : exec .rdbuf s = .next (respond (.codes s.live) s) := by
  rw [exec, execRdbuf, map_readLive_range h]

/-- Settles O40: on an exact buffer the entries in order are LIVE. -/
theorem rdbufRespondsTheBuffer : Obligations.RdbufRespondsTheBuffer := by
  unfold Obligations.RdbufRespondsTheBuffer
  exact ⟨rfl, fun _ => exec_rdbuf⟩

/-! The writers on exact buffers, each with the LIVE it flushes. -/

theorem exec_commit_exact {s : State} (h : BuffersExact s) {len pos : BitVec 3} (hp : pos.toNat < s.width)
    (hl : pos.toNat + len.toNat ≤ s.width) :
    exec (.commit len pos) s = .next (flushed { s with
      live := s.live.take pos.toNat ++ s.scr.take len.toNat ++ s.live.drop (pos.toNat + len.toNat) }) := by
  rw [exec_commit_inRange hp hl, copyScratch_exact h hl]

theorem exec_clr_exact {s : State} (h : s.live.length = s.width) :
    exec .clr s = .next (flushed { s with live := List.replicate s.width 0x00#8 }) := by
  rw [exec_clr, clearLive_exact h]

theorem exec_init_true_exact {s : State} (h : s.live.length = s.width) :
    exec (.init true) s = .next (flushed { s with
      clkDrv := false, dioDrv := false, tr := s.tr ++ [.clkRel, .dioRel],
      live := List.replicate s.width 0x00#8 }) := by
  rw [exec_init_true, clearLive_exact]
  exact h

theorem length_commit_exact {s : State} (h : BuffersExact s) {len pos : Nat} (hl : pos + len ≤ s.width) :
    (s.live.take pos ++ s.scr.take len ++ s.live.drop (pos + len)).length = s.width := by
  obtain ⟨hlive, hscr⟩ := h
  simp only [List.length_append, List.length_take, List.length_drop, hlive, hscr]
  omega

/-- After a command that flushes `v`, RDBUF responds the LIVE of `v`, whatever the answers of the peripheral. -/
theorem rdbuf_after_flush {i : Instr} {s t u v : State} (hv : exec i s = .next (flushed v))
    (hlen : v.live.length = v.width) (ht : exec i s = .next t) (hu : exec .rdbuf t = .next u) :
    u.resps = v.resps ++ [.codes v.live] := by
  rw [← Host.Outcome.next.inj (hv.symm.trans ht), exec_rdbuf (s := flushed v) hlen] at hu
  rw [← Host.Outcome.next.inj hu]
  rfl

/-- Settles O53: each writer in range flushes a state whose LIVE is the written one. -/
theorem readBackReturnsTheWrittenCodes : Obligations.ReadBackReturnsTheWrittenCodes := by
  unfold Obligations.ReadBackReturnsTheWrittenCodes
  intro s t u hexact hu
  have ⟨hlive, _⟩ := hexact
  refine ⟨fun pos code hp ht => ?wseg, fun len pos hp hl ht => ?commit, ?cleared⟩
  case wseg => exact rdbuf_after_flush (exec_wseg_inRange code hp) (List.length_set.trans hlive) ht hu
  case commit => exact rdbuf_after_flush (exec_commit_exact hexact hp hl) (length_commit_exact hexact hl) ht hu
  case cleared =>
    rintro (ht | ht)
    · exact rdbuf_after_flush (exec_clr_exact hlive) List.length_replicate ht hu
    · exact rdbuf_after_flush (exec_init_true_exact hlive) List.length_replicate ht hu

end Sys2Proof.Machine

/-! ## Proofs: SBRT (43_buffer.md R171, 10_state.md R27) -/

namespace Sys2Proof.Laws

/-- The word of a command whose last operand is a whole byte: that byte below what stands before it. -/
theorem append_byte_eq_or (p v : Byte) : (p ++ v : Word) = (p ++ 0#8) ||| v.setWidth 16 := by
  have hv : v.setWidth 16 = 0#8 ++ v := BitVec.setWidth_eq_append (by decide)
  rw [hv, BitVec.or_append, BitVec.or_zero, BitVec.zero_or]

/-- The word of SBRT: opcode 0xA, the on flag in w[8] and the level in w[7:0] (30_encoding.md R76). -/
theorem encode_sbrt (level : Byte) (on : Bool) :
    encode (.sbrt level on) = 0xA000#16 ||| (if on then 0x100#16 else 0#16) ||| level.setWidth 16 := by
  have hflag : (0xA#4 ++ 0#3 ++ BitVec.ofBool on ++ 0#8 : Word) = 0xA000#16 ||| (if on then 0x100#16 else 0#16) := by
    cases on <;> rfl
  rw [← hflag]
  exact append_byte_eq_or _ level

end Sys2Proof.Laws

namespace Sys2Proof.Machine

/-- Bit by bit: LEVEL in bits 2:0 and ON in bit 3. -/
theorem getLsbD_packBright (level : Byte) (on : Bool) (i : Nat) :
    (packBright level on).getLsbD i = if i < 3 then level.getLsbD i else decide (i = 3) && on := by
  by_cases hi : i < 4
  · cases on <;> interval_cases i <;> simp [packBright]
  · simp [BitVec.getLsbD_of_ge _ i (not_lt.mp hi), show ¬ i < 3 by omega, show i ≠ 3 by omega]

theorem packBright_level (level : Byte) (on : Bool) :
    (packBright level on).extractLsb' 0 3 = level.extractLsb' 0 3 := by
  apply BitVec.eq_of_getLsbD_eq
  intro i hi
  simp only [BitVec.getLsbD_extractLsb', getLsbD_packBright, Nat.zero_add, hi, if_true]

theorem packBright_on (level : Byte) (on : Bool) : (packBright level on).getLsbD 3 = on :=
  getLsbD_packBright level on 3

/-- The nibble read as a byte is R27's formula. -/
theorem setWidth_packBright (level : Byte) (on : Bool) :
    (packBright level on).setWidth 8 = (level &&& 0x7#8) ||| (if on then 0x8#8 else 0#8) := by
  have hlevel : ((level &&& 0x7#8).setWidth 4).setWidth 8 = level &&& 0x7#8 := by
    apply BitVec.eq_of_getLsbD_eq
    intro i hi
    interval_cases i <;> simp
  rw [packBright, BitVec.setWidth_or, hlevel]
  cases on <;> rfl

/-- Settles O42: SBRT stores the packed nibble. -/
theorem sbrtStoresTheMaskedLevel : Obligations.SbrtStoresTheMaskedLevel := by
  unfold Obligations.SbrtStoresTheMaskedLevel
  exact fun s level on => ⟨Laws.encode_sbrt level on, packBright level on, rfl, packBright_level level on,
    packBright_on level on, setWidth_packBright level on⟩

end Sys2Proof.Machine

/-! ## Proofs: the size of a flush (43_buffer.md R156) -/

namespace Sys2Proof.Machine

theorem width_pos (s : State) : 0 < s.width := by
  have hcount : ∀ w : Width, 0 < w.count := fun w => by cases w <;> decide
  exact hcount s.cfg.width

/-- FLUSH, the pseudo-command: always in range, it copies nothing and sends one flush (30_encoding.md R83). -/
theorem exec_commit_zero (s : State) : exec (.commit 0#3 0#3) s = .next (flushed s) := by
  have hwidth : 0 < s.width := width_pos s
  rw [exec_commit_inRange (len := 0#3) (pos := 0#3) hwidth hwidth.le]
  rfl

theorem count_wait_bytesEvents (p : AckDrivePolicy) (f : Nat → Level) (k : Nat) (bs : List Byte) :
    (bytesEvents p f k bs).count .wait = 20 * bs.length := by
  induction bs generalizing k with
  | nil => rfl
  | cons b bs ih =>
    rw [bytesEvents, List.count_append, count_wait_byteEvents, ih, List.length_cons]
    omega

theorem count_wait_frameEvents (p : AckDrivePolicy) (f : Nat → Level) (k : Nat) (bs : List Byte) :
    (frameEvents p f k bs).count .wait = 4 + 20 * bs.length := by
  have hstart : [Event.dioLo, .wait].count .wait = 1 := rfl
  have hstop : [Event.dioLo, .wait, .clkRel, .wait, .dioRel, .wait].count .wait = 3 := rfl
  rw [frameEvents, List.count_append, List.count_append, hstart, hstop, count_wait_bytesEvents]
  omega

/-- Three frames of four bit-delays each beside their bytes. -/
theorem count_wait_flushEvents (c : Config) (f : Nat → Level) (data : List Byte) (bright : BitVec 4) :
    (flushEvents c f data bright).count .wait = 12 + 20 * (data.length + 3) := by
  simp only [flushEvents, List.count_append, count_wait_frameEvents, List.length_cons, List.length_nil]
  omega

/-- How many samples a trace holds. -/
def samplesIn (es : List Event) : Nat := es.count (.sample .low) + es.count (.sample .high)

theorem samplesIn_append (xs ys : List Event) : samplesIn (xs ++ ys) = samplesIn xs + samplesIn ys := by
  simp only [samplesIn, List.count_append]
  omega

/-- One sample a byte, low or high. -/
theorem samplesIn_byteEvents (p : AckDrivePolicy) (b : Byte) (a : Level) : samplesIn (byteEvents p b a) = 1 := by
  rw [samplesIn, count_sample_byteEvents, count_sample_byteEvents]
  cases a <;> rfl

theorem samplesIn_bytesEvents (p : AckDrivePolicy) (f : Nat → Level) (k : Nat) (bs : List Byte) :
    samplesIn (bytesEvents p f k bs) = bs.length := by
  induction bs generalizing k with
  | nil => rfl
  | cons b bs ih => rw [bytesEvents, samplesIn_append, samplesIn_byteEvents, ih, List.length_cons, Nat.add_comm]

theorem samplesIn_frameEvents (p : AckDrivePolicy) (f : Nat → Level) (k : Nat) (bs : List Byte) :
    samplesIn (frameEvents p f k bs) = bs.length := by
  have hstart : samplesIn [.dioLo, .wait] = 0 := rfl
  have hstop : samplesIn [.dioLo, .wait, .clkRel, .wait, .dioRel, .wait] = 0 := rfl
  rw [frameEvents, samplesIn_append, samplesIn_append, hstart, hstop, samplesIn_bytesEvents]
  omega

theorem samplesIn_flushEvents (c : Config) (f : Nat → Level) (data : List Byte) (bright : BitVec 4) :
    samplesIn (flushEvents c f data bright) = data.length + 3 := by
  simp only [flushEvents, samplesIn_append, samplesIn_frameEvents, List.length_cons, List.length_nil]
  omega

/-- A policy drives after samples of one level only. -/
theorem drivesIn_le_samplesIn (p : AckDrivePolicy) (es : List Event) : drivesIn p es ≤ samplesIn es := by
  cases p with
  | onNack => exact Nat.le_add_left ..
  | onAck => exact Nat.le_add_right ..

/-- Settles O44: FLUSH appends one flush, counted frame by frame; both widths are instances. -/
theorem flushHasTheStatedSize : Obligations.FlushHasTheStatedSize := by
  unfold Obligations.FlushHasTheStatedSize
  intro s t h
  have hnew : newEvents s t = flushEvents s.cfg s.answer (wireData s) s.bright := by
    rw [← Host.Outcome.next.inj ((exec_commit_zero s).symm.trans h)]
    exact newEvents_of_append rfl
  have hlength := length_flushEvents s.cfg s.answer (wireData s) s.bright
  have hwaits := count_wait_flushEvents s.cfg s.answer (wireData s) s.bright
  have hsamples := samplesIn_flushEvents s.cfg s.answer (wireData s) s.bright
  have hdrives := drivesIn_le_samplesIn s.cfg.ackDrivePolicy (flushEvents s.cfg s.answer (wireData s) s.bright)
  rw [← hnew, wireData_length] at hlength hwaits hsamples
  rw [← hnew, hsamples] at hdrives
  refine ⟨hnew, wireData_length s, hlength, hdrives, hwaits, hsamples, fun hfour => ?_, fun hsix => ?_⟩
  · have hwidth : s.width = 4 := congrArg Width.count hfour
    omega
  · have hwidth : s.width = 6 := congrArg Width.count hsix
    omega

end Sys2Proof.Machine

/-! ## Proofs: a write touches only its range (43_buffer.md R173) -/

namespace Sys2Proof.Machine

@[simp] theorem flushed_live (s : State) : (flushed s).live = s.live := rfl

@[simp] theorem writeByte_live (b : Byte) (s : State) : (writeByte b s).live = s.live := by
  rw [writeByte_eq]

@[simp] theorem emitAll_live (es : List Event) (s : State) : (emitAll es s).live = s.live := by
  rw [emitAll_eq]

/-- Outside `pos .. pos + len − 1` COMMIT's copy leaves LIVE as it was. -/
theorem copyScratch_getElem?_outside {len pos k : Nat} (s : State) (h : ¬ (pos ≤ k ∧ k < pos + len)) :
    (copyScratch len pos s).live[k]? = s.live[k]? := by
  rw [copyScratch_eq]
  exact (getElem?_foldl_set ..).trans (if_neg fun ⟨hp, hl, _⟩ => h ⟨hp, hl⟩)

/-- Settles O49, command by command: WSEG and COMMIT leave every entry outside their range, the others but CLR and INIT 1
do not write LIVE. -/
theorem writesTouchOnlyTheirRange : Obligations.WritesTouchOnlyTheirRange := by
  unfold Obligations.WritesTouchOnlyTheirRange
  intro i s t k h hk
  by_cases hr : OutOfRange s.width i
  · rw [exec_outOfRange hr] at h
    exact absurd (by rw [← Host.Outcome.next.inj h, raiseFault_live]) hk
  cases i with
  | wseg pos code =>
    refine .inl ⟨pos, code, rfl, ?_⟩
    by_contra hne
    rw [exec_wseg_inRange code (not_le.mp hr)] at h
    refine hk ?_
    rw [← Host.Outcome.next.inj h, flushed_live, writeLive_live, List.getElem?_set_ne (Ne.symm hne)]
  | commit len pos =>
    refine .inr (.inl ⟨len, pos, rfl, ?_⟩)
    by_contra hout
    obtain ⟨hp, hl⟩ := not_or.mp hr
    rw [exec_commit_inRange (not_le.mp hp) (not_lt.mp hl)] at h
    refine hk ?_
    rw [← Host.Outcome.next.inj h, flushed_live, copyScratch_getElem?_outside s hout]
  | clr => exact .inr (.inr (.inl rfl))
  | init clr =>
    cases clr with
    | true => exact .inr (.inr (.inr rfl))
    | false =>
      refine absurd ?_ hk
      rw [← Host.Outcome.next.inj h, if_neg Bool.false_ne_true, emitAll_live]
  | wscr pos code =>
    rw [exec_wscr_inRange code (not_le.mp hr)] at h
    exact absurd (by rw [← Host.Outcome.next.inj h, writeScr_live]) hk
  | bstart | bstop =>
    exact absurd (by rw [← Host.Outcome.next.inj h]; exact congrArg (·[k]?) (emitAll_live _ s)) hk
  | bwrite b => exact absurd (by rw [← Host.Outcome.next.inj h, respond_live, writeByte_live]) hk
  | encd v | enca v | rdbuf | sflip b | gflip | sbrt level on =>
    exact absurd (by rw [← Host.Outcome.next.inj h]; rfl) hk

end Sys2Proof.Machine

/-! ## Proofs: how many bit-delays each command waits (70_reset_and_hazards.md R231) -/

namespace Sys2Proof.Machine

@[simp] theorem emitAll_tr (es : List Event) (s : State) : (emitAll es s).tr = s.tr ++ es := by
  rw [emitAll_eq]

theorem count_wait_flushed_tr (s : State) :
    (flushed s).tr.count .wait = s.tr.count .wait + (12 + 20 * (s.width + 3)) := by
  have htr : (flushed s).tr = s.tr ++ flushEvents s.cfg s.answer (wireData s) s.bright := rfl
  rw [htr, List.count_append, count_wait_flushEvents, wireData_length]

theorem count_wait_writeByte_tr (b : Byte) (s : State) :
    (writeByte b s).tr.count .wait = s.tr.count .wait + 20 := by
  rw [writeByte_eq, List.count_append, count_wait_byteEvents]

/-- WSEG, COMMIT and CLR in range wait for one flush: LIVE, the one field they write before it, holds no event. -/
theorem count_wait_writer_tr {i : Instr} {s t : State}
    (hi : (∃ pos code, i = .wseg pos code) ∨ (∃ len pos, i = .commit len pos) ∨ i = .clr)
    (hr : ¬ OutOfRange s.width i) (h : exec i s = .next t) :
    t.tr.count .wait = s.tr.count .wait + (12 + 20 * (s.width + 3)) := by
  obtain ⟨l, rfl⟩ := writer_flushes hi hr h
  exact count_wait_flushed_tr { s with live := l }

/-- INIT: its two release events are no bit-delay, so INIT 1 waits for its flush and INIT 0 not at all. -/
theorem count_wait_init_tr {clr : Bool} {s t : State} (h : exec (.init clr) s = .next t) :
    t.tr.count .wait = s.tr.count .wait + if clr then 12 + 20 * (s.width + 3) else 0 := by
  have hrelease : (s.tr ++ [Event.clkRel, .dioRel]).count .wait = s.tr.count .wait := List.count_append
  cases clr with
  | false =>
    rw [← Host.Outcome.next.inj h, if_neg Bool.false_ne_true, emitAll_tr]
    exact hrelease
  | true =>
    rw [exec_init_true, clearLive_eq] at h
    rw [← Host.Outcome.next.inj h, count_wait_flushed_tr]
    exact congrArg (· + (12 + 20 * (s.width + 3))) hrelease

/-- Settles O46, command by command: a framer primitive by its own events, a writer and INIT 1 by one flush, and the
others append nothing to the trace. -/
theorem waitsOfEachCommand : Obligations.WaitsOfEachCommand := by
  unfold Obligations.WaitsOfEachCommand
  intro i s t h hr
  cases i with
  | bstart | bstop =>
    rw [← Host.Outcome.next.inj h]
    exact (congrArg (List.count .wait) (emitAll_tr _ s)).trans List.count_append
  | bwrite b => rw [← Host.Outcome.next.inj h, respond_tr, count_wait_writeByte_tr]
  | wseg pos code => exact count_wait_writer_tr (.inl ⟨pos, code, rfl⟩) hr h
  | commit len pos => exact count_wait_writer_tr (.inr (.inl ⟨len, pos, rfl⟩)) hr h
  | clr => exact count_wait_writer_tr (.inr (.inr rfl)) hr h
  | init clr => exact count_wait_init_tr h
  | wscr pos code =>
    rw [exec_wscr_inRange code (not_le.mp hr)] at h
    rw [← Host.Outcome.next.inj h, writeScr_tr, Nat.add_zero]
  | encd v | enca v | rdbuf | gflip => rw [← Host.Outcome.next.inj h, respond_tr, Nat.add_zero]
  | sflip b => rw [← Host.Outcome.next.inj h, setFlip_tr, Nat.add_zero]
  | sbrt level on => rw [← Host.Outcome.next.inj h, setBright_tr, Nat.add_zero]

end Sys2Proof.Machine

/-! ## Proofs: the decoder and the encoder are inverse to each other (30_encoding.md R70 to R79)

Both ways rest on `decode_eq_instr_iff`: a command's word matches its row, and the operand fields read back are the
operands written. -/

namespace Sys2Proof.Laws

/-- Every command's word matches its own row. -/
theorem encode_matchesRow (i : Instr) : MatchesRow.Statement i := by
  cases i with
  | encd v => exact MatchesRow.encd v
  | enca v => exact MatchesRow.enca v
  | wscr pos code => exact MatchesRow.wscr pos code
  | wseg pos code => exact MatchesRow.wseg pos code
  | commit len pos => exact MatchesRow.commit len pos
  | clr => exact MatchesRow.clr
  | rdbuf => exact MatchesRow.rdbuf
  | sflip b => exact MatchesRow.sflip b
  | gflip => exact MatchesRow.gflip
  | sbrt level on => exact MatchesRow.sbrt level on
  | init clr => exact MatchesRow.init clr
  | bstart => exact MatchesRow.bstart
  | bstop => exact MatchesRow.bstop
  | bwrite b => exact MatchesRow.bwrite b

/-! The operand fields of a word put together from its operands. -/

/-- w[7:0], below whatever stands in w[15:8]. -/
theorem byteField_append (p v : Byte) : byteField (p ++ v) = v := BitVec.extractLsb'_append_eq_right

/-- w[10:8] of format P (30_encoding.md R72). -/
theorem posFieldP_append (op : BitVec 4) (pos : BitVec 3) (code : Byte) :
    posFieldP (op ++ 0#1 ++ pos ++ code) = pos := by
  have hhigh : posFieldP (op ++ 0#1 ++ pos ++ code) = (op ++ 0#1 ++ pos).extractLsb' 0 3 :=
    BitVec.extractLsb'_append_eq_of_le le_rfl
  rw [hhigh]
  exact BitVec.extractLsb'_append_eq_right

/-- w[2:0] of format R (30_encoding.md R73). -/
theorem posFieldR_append (op : BitVec 4) (len pos : BitVec 3) :
    posFieldR (op ++ 0#5 ++ len ++ 0#1 ++ pos) = pos := BitVec.extractLsb'_append_eq_right

/-- w[6:4] of format R (30_encoding.md R73). -/
theorem lenField_append (op : BitVec 4) (len pos : BitVec 3) :
    lenField (op ++ 0#5 ++ len ++ 0#1 ++ pos) = len := by
  have hhigh : lenField (op ++ 0#5 ++ len ++ 0#1 ++ pos) = (op ++ 0#5 ++ len ++ 0#1).extractLsb' 1 3 :=
    BitVec.extractLsb'_append_eq_of_le (by decide)
  have hnext : (op ++ 0#5 ++ len ++ 0#1).extractLsb' 1 3 = (op ++ 0#5 ++ len).extractLsb' 0 3 :=
    BitVec.extractLsb'_append_eq_of_le le_rfl
  rw [hhigh, hnext]
  exact BitVec.extractLsb'_append_eq_right

/-- w[0] of format F (30_encoding.md R75). -/
theorem flagField_append (op : BitVec 4) (b : Bool) : flagField (op ++ 0#11 ++ BitVec.ofBool b) = b := by
  rw [flagField, BitVec.getLsbD_append]
  cases b <;> rfl

/-- w[8] of format S (30_encoding.md R76). -/
theorem onField_append (level : Byte) (on : Bool) :
    onField (0xA#4 ++ 0#3 ++ BitVec.ofBool on ++ level) = on := by
  rw [onField, BitVec.getLsbD_append, if_neg (by decide)]
  cases on <;> rfl

/-- A command is what its row reads from its word. -/
theorem instrOf_encode (i : Instr) : instrOf (encode i) i.mnemonic = i := by
  cases i with
  | encd v => exact congrArg Instr.encd (byteField_append _ v)
  | enca v => exact congrArg Instr.enca (byteField_append _ v)
  | wscr pos code => exact congrArg₂ Instr.wscr (posFieldP_append _ pos code) (byteField_append _ code)
  | wseg pos code => exact congrArg₂ Instr.wseg (posFieldP_append _ pos code) (byteField_append _ code)
  | commit len pos => exact congrArg₂ Instr.commit (lenField_append _ len pos) (posFieldR_append _ len pos)
  | sflip b => exact congrArg Instr.sflip (flagField_append _ b)
  | sbrt level on => exact congrArg₂ Instr.sbrt (byteField_append _ level) (onField_append level on)
  | init clr => exact congrArg Instr.init (flagField_append _ clr)
  | bwrite b => exact congrArg Instr.bwrite (byteField_append _ b)
  | clr | rdbuf | gflip | bstart | bstop => rfl

/-- Settles O1: a command's word matches its row, and the row reads the command back. -/
theorem decodeOfEncodeIsTheCommand : Obligations.DecodeOfEncodeIsTheCommand := by
  unfold Obligations.DecodeOfEncodeIsTheCommand
  exact fun i => (decode_eq_instr_iff (encode i) i).mpr ⟨encode_matchesRow i, (instrOf_encode i).symm⟩

/-- A word that matches a row without operands is the row's pattern. -/
theorem eq_of_match_allOnes {w p : Word} (h : w &&& 0xFFFF#16 = p) : p = w := by
  rw [← h]
  exact BitVec.and_allOnes

/-- A word that matches a row is the word of the command the row reads from it. -/
theorem encode_instrOf {w : Word} {m : Mnemonic}
    (h : w &&& (MatchesRow.fixed m).2 = (MatchesRow.fixed m).1) : encode (instrOf w m) = w := by
  cases m with
  | encd => exact reassemble_byte (op := 0x1#4) h
  | enca => exact reassemble_byte (op := 0x2#4) h
  | wscr => exact reassemble_position (op := 0x3#4) h
  | wseg => exact reassemble_position (op := 0x4#4) h
  | commit => exact reassemble_range (op := 0x5#4) h
  | sflip => exact reassemble_flag (op := 0x8#4) h
  | sbrt => exact reassemble_brightness (op := 0xA#4) h
  | init => exact reassemble_flag (op := 0xB#4) h
  | bwrite => exact reassemble_byte (op := 0xE#4) h
  | clr | rdbuf | gflip | bstart | bstop => exact eq_of_match_allOnes h

theorem encode_of_decode {w : Word} {i : Instr} (h : decode w = .instr i) : encode i = w := by
  obtain ⟨hmatch, hi⟩ := (decode_eq_instr_iff w i).mp h
  rw [hi]
  exact encode_instrOf hmatch

/-- Settles O2: the fields of a word that matches a row, put back in their places, give the word. -/
theorem encodeOfDecodeIsTheWord : Obligations.EncodeOfDecodeIsTheWord := by
  unfold Obligations.EncodeOfDecodeIsTheWord
  exact fun _ _ => encode_of_decode

/-- Settles O5: each word is, bit for bit, the encoding of its command. -/
theorem exampleWordsDecode : Obligations.ExampleWordsDecode := by
  unfold Obligations.ExampleWordsDecode
  exact ⟨decodeOfEncodeIsTheCommand (.encd 0x1B#8), decodeOfEncodeIsTheCommand (.enca 0xB0#8),
    decodeOfEncodeIsTheCommand (.wscr 2#3 0x4F#8), decodeOfEncodeIsTheCommand (.wseg 3#3 0x3F#8),
    decodeOfEncodeIsTheCommand (.commit 2#3 1#3), decodeOfEncodeIsTheCommand .clr, decodeOfEncodeIsTheCommand .rdbuf,
    decodeOfEncodeIsTheCommand (.sflip true), decodeOfEncodeIsTheCommand .gflip,
    decodeOfEncodeIsTheCommand (.sbrt 9#8 true), decodeOfEncodeIsTheCommand (.init true),
    decodeOfEncodeIsTheCommand .bstart, decodeOfEncodeIsTheCommand .bstop, decodeOfEncodeIsTheCommand (.bwrite 0x40#8)⟩

end Sys2Proof.Laws

/-! ## Proofs: the assembler (30_encoding.md R82)

A line whose operands fit its fields spells its command, whose word is the opcode with the operands or'd in. A line with an
operand over its limit is not well formed. -/

namespace Sys2Proof.Laws

/-- The word of format P: opcode, position in w[10:8] and code in w[7:0] (30_encoding.md R72). -/
theorem positionWord_eq_or (op : BitVec 4) (pos : BitVec 3) (code : Byte) :
    (op ++ 0#1 ++ pos ++ code : Word) = (op ++ 0#12) ||| pos.setWidth 16 <<< 8 ||| code.setWidth 16 := by
  have hhigh : (op ++ 0#1 ++ pos ++ 0#8 : Word) = (op ++ 0#12) ||| pos.setWidth 16 <<< 8 := by
    revert op pos
    decide
  rw [← hhigh]
  exact append_byte_eq_or _ code

/-! The same words from operands given as numbers. -/

theorem setWidth_ofNat_byte {v : Nat} (h : v ≤ 255) : (BitVec.ofNat 8 v).setWidth 16 = BitVec.ofNat 16 v :=
  BitVec.setWidth_ofNat_of_le_of_lt (by decide) (by omega)

theorem byteWord_ofNat (op : BitVec 4) {v m : Nat} (hop : op ++ 0#12 = BitVec.ofNat 16 m) (hv : v ≤ 255) :
    (op ++ 0#4 ++ BitVec.ofNat 8 v : Word) = BitVec.ofNat 16 (m ||| v) := by
  rw [byteWord_eq_or, hop, setWidth_ofNat_byte hv, BitVec.ofNat_or]

theorem positionWord_ofNat (op : BitVec 4) {pos code m : Nat} (hop : op ++ 0#12 = BitVec.ofNat 16 m) (hp : pos ≤ 7)
    (hc : code ≤ 255) :
    (op ++ 0#1 ++ BitVec.ofNat 3 pos ++ BitVec.ofNat 8 code : Word) = BitVec.ofNat 16 (m ||| pos <<< 8 ||| code) := by
  have hpos : (BitVec.ofNat 3 pos).setWidth 16 <<< 8 = BitVec.ofNat 16 (pos <<< 8) := by
    interval_cases pos <;> rfl
  rw [positionWord_eq_or, hop, hpos, setWidth_ofNat_byte hc, BitVec.ofNat_or, BitVec.ofNat_or]

theorem sbrtWord_ofNat {level on : Nat} (hl : level ≤ 255) (ho : on ≤ 1) :
    encode (.sbrt (BitVec.ofNat 8 level) (on == 1)) = BitVec.ofNat 16 (0xA000 ||| on <<< 8 ||| level) := by
  have hflag : (if on == 1 then 0x100#16 else 0#16) = BitVec.ofNat 16 (on <<< 8) := by
    interval_cases on <;> rfl
  rw [encode_sbrt, hflag, setWidth_ofNat_byte hl, BitVec.ofNat_or, BitVec.ofNat_or]

theorem commitWord_ofNat {len pos : Nat} (hl : len ≤ 7) (hp : pos ≤ 7) :
    encode (.commit (BitVec.ofNat 3 len) (BitVec.ofNat 3 pos)) = BitVec.ofNat 16 (0x5000 ||| len <<< 4 ||| pos) := by
  interval_cases len <;> interval_cases pos <;> rfl

theorem flagWord_ofNat (op : BitVec 4) {b m : Nat} (hop : op ++ 0#12 = BitVec.ofNat 16 m) (hb : b ≤ 1) :
    (op ++ 0#11 ++ BitVec.ofBool (b == 1) : Word) = BitVec.ofNat 16 (m ||| b) := by
  have hflag : (op ++ 0#11 ++ BitVec.ofBool (b == 1) : Word) = (op ++ 0#12) ||| BitVec.ofNat 16 b := by
    clear hop
    revert op
    interval_cases b <;> decide
  rw [hflag, hop, BitVec.ofNat_or]

/-! Lines. -/

/-- A well-formed line assembles to the word of the command it spells. -/
theorem assemble_map_encode {l : AsmLine} {i : Instr} {w : Word} (hwf : l.wf = true) (hi : l.instr? = some i)
    (hw : encode i = w) : (assemble l).map encode = some w := by
  rw [assemble, if_pos hwf, hi, Option.map_some, hw]

theorem assemble_eq_none {l : AsmLine} (h : l.wf = false) : assemble l = none := by
  rw [assemble, if_neg (by simp [h])]

/-- A line of one operand is well formed iff the operand fits. -/
theorem wf_one {m : Mnemonic} {a limit : Nat} (hm : operandLimits m = [limit]) :
    (AsmLine.mk m [a]).wf = decide (a ≤ limit) := by
  simp [AsmLine.wf, AsmLine.rightCount, AsmLine.operandsFit, hm]

/-- A line of two operands is well formed iff both fit. -/
theorem wf_two {m : Mnemonic} {a b limit limit' : Nat} (hm : operandLimits m = [limit, limit']) :
    (AsmLine.mk m [a, b]).wf = decide (a ≤ limit ∧ b ≤ limit') := by
  simp [AsmLine.wf, AsmLine.rightCount, AsmLine.operandsFit, hm]

theorem wf_one_of_le {m : Mnemonic} {a limit : Nat} (hm : operandLimits m = [limit]) (h : a ≤ limit) :
    (AsmLine.mk m [a]).wf = true := (wf_one hm).trans (decide_eq_true h)

theorem wf_two_of_le {m : Mnemonic} {a b limit limit' : Nat} (hm : operandLimits m = [limit, limit'])
    (ha : a ≤ limit) (hb : b ≤ limit') : (AsmLine.mk m [a, b]).wf = true := (wf_two hm).trans (decide_eq_true ⟨ha, hb⟩)

theorem assemble_one_over {m : Mnemonic} {a limit : Nat} (hm : operandLimits m = [limit]) (h : a > limit) :
    assemble ⟨m, [a]⟩ = none :=
  assemble_eq_none ((wf_one hm).trans (decide_eq_false (not_le.mpr h)))

theorem assemble_two_over {m : Mnemonic} {a b limit limit' : Nat} (hm : operandLimits m = [limit, limit'])
    (h : a > limit ∨ b > limit') : assemble ⟨m, [a, b]⟩ = none :=
  assemble_eq_none ((wf_two hm).trans (decide_eq_false (by omega)))

/-- Settles O4, line by line: the word of each well-formed line, and the limit a rejected line exceeds. -/
theorem assemblerSpellsTheWord : Obligations.AssemblerSpellsTheWord := by
  unfold Obligations.AssemblerSpellsTheWord
  refine ⟨fun v hv => ?encd, fun v hv => ?enca, fun pos hp code hc => ?wscr, fun pos hp code hc => ?wseg,
    fun len hl pos hp => ?commit, rfl, rfl, fun b hb => ?sflip, rfl, fun level hl on ho => ?sbrt, fun clr hc => ?init,
    rfl, rfl, fun b hb => ?bwrite, fun v hv => ?byteOver, fun pos code h => ?positionOver, fun len pos h => ?rangeOver,
    fun level on h => ?sbrtOver, fun b hb => ?flagOver⟩
  case encd => exact assemble_map_encode (wf_one_of_le rfl hv) rfl (byteWord_ofNat 0x1#4 rfl hv)
  case enca => exact assemble_map_encode (wf_one_of_le rfl hv) rfl (byteWord_ofNat 0x2#4 rfl hv)
  case wscr => exact assemble_map_encode (wf_two_of_le rfl hp hc) rfl (positionWord_ofNat 0x3#4 rfl hp hc)
  case wseg => exact assemble_map_encode (wf_two_of_le rfl hp hc) rfl (positionWord_ofNat 0x4#4 rfl hp hc)
  case commit => exact assemble_map_encode (wf_two_of_le rfl hl hp) rfl (commitWord_ofNat hl hp)
  case sflip => exact assemble_map_encode (wf_one_of_le rfl hb) rfl (flagWord_ofNat 0x8#4 rfl hb)
  case sbrt => exact assemble_map_encode (wf_two_of_le rfl hl ho) rfl (sbrtWord_ofNat hl ho)
  case init => exact assemble_map_encode (wf_one_of_le rfl hc) rfl (flagWord_ofNat 0xB#4 rfl hc)
  case bwrite => exact assemble_map_encode (wf_one_of_le rfl hb) rfl (byteWord_ofNat 0xE#4 rfl hb)
  case byteOver => exact ⟨assemble_one_over rfl hv, assemble_one_over rfl hv, assemble_one_over rfl hv⟩
  case positionOver => exact ⟨assemble_two_over rfl h, assemble_two_over rfl h⟩
  case rangeOver => exact assemble_two_over rfl h
  case sbrtOver => exact assemble_two_over rfl h
  case flagOver => exact ⟨assemble_one_over rfl hb, assemble_one_over rfl hb⟩

end Sys2Proof.Laws

/-! ## Proofs: steps and faults (60_exceptions.md R190 to R196, R204) -/

namespace Sys2Proof.Laws

open Sys2Proof.Machine

/-- The rows of `MatchesNoRow` are the table's. -/
theorem matchesNoRow_iff_forall (w : Word) :
    MatchesNoRow w ↔ ∀ m, w &&& (MatchesRow.fixed m).2 ≠ (MatchesRow.fixed m).1 := by
  constructor
  · rintro ⟨h1, h2, h3, h4, h5, h6, h7, h8, h9, h10, h11, h12, h13, h14⟩ m
    cases m <;> assumption
  · exact fun h => ⟨h .encd, h .enca, h .wscr, h .wseg, h .commit, h .clr, h .rdbuf, h .sflip, h .gflip, h .sbrt, h .init,
      h .bstart, h .bstop, h .bwrite⟩

/-- The words that match no row are the words that spell no command. -/
theorem matchesNoRow_iff_decode (w : Word) : MatchesNoRow w ↔ ∀ i, decode w ≠ .instr i := by
  rw [matchesNoRow_iff_forall]
  constructor
  · exact fun h i hi => h i.mnemonic ((decode_eq_instr_iff w i).mp hi).1
  · intro h m hm
    refine h (instrOf w m) ((decode_eq_instr_iff w _).mpr ?_)
    rw [instrOf_mnemonic]
    exact ⟨hm, rfl⟩

end Sys2Proof.Laws

namespace Sys2Proof.Machine

/-- Settles O6: the equation of a step whose word decodes. -/
theorem stepRunsTheDecodedCommand : Obligations.StepRunsTheDecodedCommand := by
  unfold Obligations.StepRunsTheDecodedCommand
  exact fun _ _ _ _ hs hc hd => step_instr hs hc hd

/-- Settles O9: the equation of a step from a stopped state. -/
theorem stoppedBlockTakesNoCommand : Obligations.StoppedBlockTakesNoCommand := by
  unfold Obligations.StoppedBlockTakesNoCommand
  exact fun _ _ => step_stopped

/-- Settles O13: the equation of a step with nothing pending. -/
theorem waitingBlockIsUnchanged : Obligations.WaitingBlockIsUnchanged := by
  unfold Obligations.WaitingBlockIsUnchanged
  exact fun _ => step_idle

/-- Settles O7: a word that matches no row spells no command. -/
theorem illegalWordStopsTheBlock : Obligations.IllegalWordStopsTheBlock := by
  unfold Obligations.IllegalWordStopsTheBlock
  exact fun s w rest hs hc hw => step_noInstr hs hc ((Laws.matchesNoRow_iff_decode w).mp hw)

/-- A step that takes an operand out of range records the word it took: that word is the command's encoding. -/
theorem step_outOfRange {s : State} {w : Word} {rest : List Word} {i : Instr} (hs : Running s)
    (hc : s.cmds = w :: rest) (hd : decode w = .instr i) (hr : OutOfRange s.width i) :
    step s = .next (raiseFault .range w { s with cmds := rest }) := by
  rw [step_instr hs hc hd, exec_outOfRange (s := { s with cmds := rest }) hr, Laws.encode_of_decode hd]

/-- Settles O8, from the step that takes an operand out of range. -/
theorem rangeFaultRecordsTheWord : Obligations.RangeFaultRecordsTheWord := by
  unfold Obligations.RangeFaultRecordsTheWord
  exact fun _ _ _ _ hs hc hd hr => step_outOfRange hs hc hd hr

/-! Every command has a next state, and what it is, command by command. -/

/-- What a command does, in terms of the shared operations: the shapes of `exec_shape` with the commands they belong to. The
three writers of LIVE are one case, since each flushes a state that differs from the old one in LIVE alone. -/
inductive Effect (s : State) : Instr → State → Prop where
  | outOfRange {i : Instr} (h : OutOfRange s.width i) : Effect s i (raiseFault .range (encode i) s)
  | reader {i : Instr} (h : i = .rdbuf ∨ i = .gflip ∨ (∃ v, i = .encd v) ∨ ∃ v, i = .enca v) (r : Response) :
    Effect s i (respond r s)
  | wscr {pos : BitVec 3} {code : Byte} : Effect s (.wscr pos code) (writeScr pos.toNat code s)
  | writer {i : Instr} (h : (∃ pos code, i = .wseg pos code) ∨ (∃ len pos, i = .commit len pos) ∨ i = .clr)
    (l : List Byte) : Effect s i (flushed { s with live := l })
  | sflip (b : Bool) : Effect s (.sflip b) (setFlip b s)
  | sbrt (level : Byte) (on : Bool) : Effect s (.sbrt level on) (setBright (packBright level on) s)
  | release : Effect s (.init false) { s with clkDrv := false, dioDrv := false, tr := s.tr ++ [.clkRel, .dioRel] }
  | releaseClear (l : List Byte) : Effect s (.init true) (flushed { s with
      clkDrv := false, dioDrv := false, tr := s.tr ++ [.clkRel, .dioRel], live := l })
  | bstart : Effect s .bstart (startCond s)
  | bstop : Effect s .bstop (stopCond s)
  | bwrite (b : Byte) : Effect s (.bwrite b) (respond (.bit (writeByte b s).ackLast) (writeByte b s))

/-- INIT 0: both lines released (43_buffer.md R172). -/
theorem exec_init_false (s : State) : exec (.init false) s = .next { s with
    clkDrv := false, dioDrv := false, tr := s.tr ++ [.clkRel, .dioRel] } :=
  congrArg Host.Outcome.next (releaseLines_eq s)

/-- Every command in every state has a next state, and it is the command's effect. -/
theorem exec_effect (i : Instr) (s : State) : ∃ t, exec i s = .next t ∧ Effect s i t := by
  by_cases hr : OutOfRange s.width i
  · exact ⟨_, exec_outOfRange hr, .outOfRange hr⟩
  cases i with
  | encd v => exact ⟨_, rfl, .reader (.inr (.inr (.inl ⟨v, rfl⟩))) _⟩
  | enca v => exact ⟨_, rfl, .reader (.inr (.inr (.inr ⟨v, rfl⟩))) _⟩
  | rdbuf => exact ⟨_, rfl, .reader (.inl rfl) _⟩
  | gflip => exact ⟨_, rfl, .reader (.inr (.inl rfl)) _⟩
  | wscr pos code => exact ⟨_, exec_wscr_inRange code (not_le.mp hr), .wscr⟩
  | wseg pos code => exact ⟨_, exec_wseg_inRange code (not_le.mp hr), .writer (.inl ⟨pos, code, rfl⟩) _⟩
  | commit len pos =>
    obtain ⟨hp, hl⟩ := not_or.mp hr
    refine ⟨_, exec_commit_inRange (not_le.mp hp) (not_lt.mp hl), ?_⟩
    rw [copyScratch_eq]
    exact .writer (.inr (.inl ⟨len, pos, rfl⟩)) _
  | clr =>
    refine ⟨_, exec_clr s, ?_⟩
    rw [clearLive_eq]
    exact .writer (.inr (.inr rfl)) _
  | sflip b => exact ⟨_, rfl, .sflip b⟩
  | sbrt level on => exact ⟨_, rfl, .sbrt level on⟩
  | init clr =>
    cases clr with
    | false => exact ⟨_, exec_init_false s, .release⟩
    | true =>
      refine ⟨_, exec_init_true s, ?_⟩
      rw [clearLive_eq]
      exact .releaseClear _
  | bstart => exact ⟨_, rfl, .bstart⟩
  | bstop => exact ⟨_, rfl, .bstop⟩
  | bwrite b => exact ⟨_, rfl, .bwrite b⟩

theorem effect_of_exec {i : Instr} {s t : State} (h : exec i s = .next t) : Effect s i t := by
  obtain ⟨u, hu, heffect⟩ := exec_effect i s
  rwa [← Host.Outcome.next.inj (hu.symm.trans h)]

/-- A running block always has a next state. -/
theorem step_running {s : State} (h : Running s) : ∃ t, step s = .next t := by
  cases hc : s.cmds with
  | nil => exact ⟨s, step_idle h hc⟩
  | cons w rest =>
    by_cases hw : ∃ i, decode w = .instr i
    · obtain ⟨i, hd⟩ := hw
      obtain ⟨t, ht, -⟩ := exec_effect i { s with cmds := rest }
      exact ⟨t, (step_instr h hc hd).trans ht⟩
    · exact ⟨_, step_noInstr h hc (not_exists.mp hw)⟩

/-- Settles O11: a step from a stopped state answers a fault, and every other one a next state. -/
theorem onlyAStoppedBlockHasNoNextState : Obligations.OnlyAStoppedBlockHasNoNextState := by
  unfold Obligations.OnlyAStoppedBlockHasNoNextState
  exact fun s => ⟨fun ⟨_, ht⟩ => (step_shape ht).1, step_running⟩

@[simp] theorem flushed_stopped (s : State) : (flushed s).stopped = s.stopped := rfl

@[simp] theorem writeByte_stopped (b : Byte) (s : State) : (writeByte b s).stopped = s.stopped := by
  rw [writeByte_eq]

@[simp] theorem emitAll_stopped (es : List Event) (s : State) : (emitAll es s).stopped = s.stopped := by
  rw [emitAll_eq]

/-- A command in range does not touch STOPPED. -/
theorem exec_inRange_stopped {i : Instr} {s t : State} (h : exec i s = .next t) (hr : ¬ OutOfRange s.width i) :
    t.stopped = s.stopped := by
  cases effect_of_exec h with
  | outOfRange hout => exact absurd hout hr
  | reader _ r => exact respond_stopped r s
  | wscr => exact writeScr_stopped ..
  | writer => exact flushed_stopped _
  | sflip b => exact setFlip_stopped b s
  | sbrt level on => exact setBright_stopped _ s
  | release => rfl
  | releaseClear => exact flushed_stopped _
  | bstart => exact emitAll_stopped _ s
  | bstop => exact emitAll_stopped _ s
  | bwrite b => exact (respond_stopped ..).trans (writeByte_stopped b s)

/-- Settles O12: out of range the one equation of every command, in range its effect. -/
theorem onlyAnOperandOutOfRangeStopsACommand : Obligations.OnlyAnOperandOutOfRangeStopsACommand := by
  unfold Obligations.OnlyAnOperandOutOfRangeStopsACommand
  intro i s t h
  exact ⟨fun hr => Host.Outcome.next.inj (h.symm.trans (exec_outOfRange hr)), exec_inRange_stopped h⟩

/-- Settles O10, along the ways a step can go: waiting and a command in range keep STOPPED, the other two record the word
taken. -/
theorem stopsOnlyAsTheRulesSay : Obligations.StopsOnlyAsTheRulesSay := by
  unfold Obligations.StopsOnlyAsTheRulesSay
  refine ⟨rfl, fun s t h => ?_⟩
  obtain ⟨hs, hways⟩ := step_shape h
  refine ⟨hs, ?_⟩
  obtain ⟨-, rfl⟩ | ⟨w, rest, hc, ⟨i, hd, hi⟩ | ⟨hd, rfl⟩⟩ := hways
  · exact .inl hs
  · by_cases hr : OutOfRange s.width i
    · have ht := Host.Outcome.next.inj (h.symm.trans (step_outOfRange hs hc hd hr))
      exact .inr ⟨w, rest, hc, .inr ⟨i, hd, hr, by rw [ht, raiseFault_stopped]⟩⟩
    · exact .inl ((exec_inRange_stopped hi hr).trans hs)
  · exact .inr ⟨w, rest, hc, .inl ⟨(Laws.matchesNoRow_iff_decode w).mpr hd, raiseFault_stopped ..⟩⟩

@[simp] theorem flushed_cmds (s : State) : (flushed s).cmds = s.cmds := rfl

@[simp] theorem writeByte_cmds (b : Byte) (s : State) : (writeByte b s).cmds = s.cmds := by
  rw [writeByte_eq]

@[simp] theorem emitAll_cmds (es : List Event) (s : State) : (emitAll es s).cmds = s.cmds := by
  rw [emitAll_eq]

/-- No command touches the pending words. -/
theorem exec_cmds {i : Instr} {s t : State} (h : exec i s = .next t) : t.cmds = s.cmds := by
  cases effect_of_exec h with
  | outOfRange => exact raiseFault_cmds ..
  | reader _ r => exact respond_cmds r s
  | wscr => exact writeScr_cmds ..
  | writer => exact flushed_cmds _
  | sflip b => exact setFlip_cmds b s
  | sbrt level on => exact setBright_cmds _ s
  | release => rfl
  | releaseClear => exact flushed_cmds _
  | bstart => exact emitAll_cmds _ s
  | bstop => exact emitAll_cmds _ s
  | bwrite b => exact (respond_cmds ..).trans (writeByte_cmds b s)

/-- Settles O14: the step takes the word, and the command it runs leaves the others. -/
theorem commandStreamIsOnlyTaken : Obligations.CommandStreamIsOnlyTaken := by
  unfold Obligations.CommandStreamIsOnlyTaken
  intro s t w rest hc h
  obtain ⟨-, ⟨hnil, -⟩ | ⟨v, rest', hc', hways⟩⟩ := step_shape h
  · simp [hc] at hnil
  · have hrest : rest = rest' := (List.cons.inj (hc.symm.trans hc')).2
    obtain ⟨i, -, hi⟩ | ⟨-, rfl⟩ := hways
    · exact (exec_cmds hi).trans hrest.symm
    · exact hrest.symm

end Sys2Proof.Machine

/-! ## Proofs: the invariants (10_state.md R23, R24, R29, R31, R32)

Said once for the pin trace: what every command appends to TR, with the drive bits and ACK_LAST that go with it. The three
invariants of the trace follow from that. -/

namespace Sys2Proof.Machine

/-- A property that every command keeps, that a recorded fault keeps and that does not speak of the pending words is kept
by every step. -/
theorem step_keeps {P : State → Prop} (hcmds : ∀ s rest, P s → P { s with cmds := rest })
    (hfault : ∀ r w s, P s → P (raiseFault r w s)) (hexec : ∀ i s t, P s → exec i s = .next t → P t) {s t : State}
    (hs : P s) (h : step s = .next t) : P t := by
  obtain ⟨-, ⟨-, rfl⟩ | ⟨w, rest, -, ⟨i, -, hi⟩ | ⟨-, rfl⟩⟩⟩ := step_shape h
  · exact hs
  · exact hexec i _ t (hcmds s rest hs) hi
  · exact hfault _ w _ (hcmds s rest hs)

/-! The buffers. -/

@[simp] theorem writeByte_scr (b : Byte) (s : State) : (writeByte b s).scr = s.scr := by
  rw [writeByte_eq]

@[simp] theorem emitAll_scr (es : List Event) (s : State) : (emitAll es s).scr = s.scr := by
  rw [emitAll_eq]

/-- No command changes the length of a buffer. -/
theorem exec_buffer_lengths {i : Instr} {s t : State} (h : exec i s = .next t) :
    t.live.length = s.live.length ∧ t.scr.length = s.scr.length := by
  obtain ⟨r, rfl⟩ | ⟨k, v, rfl⟩ | ⟨w, rfl⟩ | ⟨b, rfl⟩ | ⟨v, rfl⟩ | ⟨l, hl, rfl⟩ | ⟨l, hl, rfl⟩ | rfl | rfl | rfl |
    ⟨b, rfl⟩ := exec_shape h
  · exact ⟨rfl, rfl⟩
  · exact ⟨rfl, List.length_set⟩
  · exact ⟨rfl, rfl⟩
  · exact ⟨rfl, rfl⟩
  · exact ⟨rfl, rfl⟩
  · exact ⟨hl, rfl⟩
  · exact ⟨hl, rfl⟩
  · exact ⟨rfl, rfl⟩
  · simp only [startCond, emitAll_live, emitAll_scr, and_self]
  · simp only [stopCond, emitAll_live, emitAll_scr, and_self]
  · simp only [respond_live, respond_scr, writeByte_live, writeByte_scr, and_self]

/-- A command keeps the lengths and N, so it keeps exact buffers. -/
theorem exec_buffersExact {i : Instr} {s t : State} (hs : BuffersExact s) (h : exec i s = .next t) : BuffersExact t := by
  obtain ⟨hlive, hscr⟩ := hs
  obtain ⟨hlive', hscr'⟩ := exec_buffer_lengths h
  have hwidth : t.width = s.width := congrArg (·.width.count) (exec_cfg h)
  exact ⟨hlive'.trans (hlive.trans hwidth.symm), hscr'.trans (hscr.trans hwidth.symm)⟩

/-- Settles O17: no command changes a length. -/
theorem stepKeepsBuffersExact : Obligations.StepKeepsBuffersExact := by
  unfold Obligations.StepKeepsBuffersExact
  exact fun s t => step_keeps (fun _ _ h => h) (fun _ _ _ h => h) (fun _ _ _ => exec_buffersExact)

/-! What goes onto the wire. -/

/-- From `s` to `t` the events `es` were appended to TR; the drive bits and ACK_LAST are what `es` makes of the old ones,
and each sample of `es` falls while DIO is released, however DIO was driven before. -/
structure Emits (es : List Event) (s t : State) : Prop where
  tr : t.tr = s.tr ++ es
  clkDrv : t.clkDrv = es.foldl (fun d e => clkAfter e d) s.clkDrv
  dioDrv : t.dioDrv = es.foldl (fun d e => dioAfter e d) s.dioDrv
  ackLast : t.ackLast = ((lastSample es).map (· == .low)).getD s.ackLast
  samples : ∀ d, samplesOk d es = true

/-- A state with the same pins and trace. -/
theorem Emits.nothing {s t : State} (htr : t.tr = s.tr) (hclk : t.clkDrv = s.clkDrv) (hdio : t.dioDrv = s.dioDrv)
    (hack : t.ackLast = s.ackLast) : Emits [] s t :=
  ⟨by rw [htr, List.append_nil], hclk, hdio, hack, fun _ => rfl⟩

theorem Emits.trans {es fs : List Event} {s t u : State} (h : Emits es s t) (h' : Emits fs t u) :
    Emits (es ++ fs) s u where
  tr := by rw [h'.tr, h.tr, List.append_assoc]
  clkDrv := by rw [h'.clkDrv, h.clkDrv, List.foldl_append]
  dioDrv := by rw [h'.dioDrv, h.dioDrv, List.foldl_append]
  ackLast := by
    rw [h'.ackLast, h.ackLast, lastSample_append]
    cases lastSample fs <;> rfl
  samples d := by rw [samplesOk_append, h.samples, h'.samples, Bool.and_self]

/-- Events without a sample. -/
theorem emits_emitAll {es : List Event} (s : State) (hlast : lastSample es = none)
    (hsamples : ∀ d, samplesOk d es = true) : Emits es s (emitAll es s) := by
  rw [emitAll_eq]
  exact ⟨rfl, rfl, rfl, by rw [hlast]; rfl, hsamples⟩

theorem emits_startCond (s : State) : Emits [.dioLo, .wait] s (startCond s) := emits_emitAll s rfl fun _ => rfl

theorem emits_stopCond (s : State) : Emits [.dioLo, .wait, .clkRel, .wait, .dioRel, .wait] s (stopCond s) :=
  emits_emitAll s rfl fun _ => rfl

theorem emits_release (s : State) : Emits [.clkRel, .dioRel] s
    { s with clkDrv := false, dioDrv := false, tr := s.tr ++ [.clkRel, .dioRel] } := by
  rw [← releaseLines_eq]
  exact emits_emitAll s rfl fun _ => rfl

/-! The drive bits follow an event just as `drivenBy` reads it. -/

theorem clkAfter_eq (e : Event) (d : Bool) :
    clkAfter e d = if e = .clkLo then true else if e = .clkRel then false else d := by
  cases e <;> rfl

theorem dioAfter_eq (e : Event) (d : Bool) :
    dioAfter e d = if e = .dioLo then true else if e = .dioRel then false else d := by
  cases e <;> rfl

theorem foldl_clkAfter_byteEvents (p : AckDrivePolicy) (b : Byte) (a : Level) (d : Bool) :
    (byteEvents p b a).foldl (fun d e => clkAfter e d) d = true := by
  rw [byteEvents, List.foldl_append]
  cases p <;> cases a <;> rfl

theorem foldl_dioAfter_byteEvents (p : AckDrivePolicy) (b : Byte) (a : Level) (d : Bool) :
    (byteEvents p b a).foldl (fun d e => dioAfter e d) d = drivesAfter p a := by
  rw [byteEvents, List.foldl_append]
  cases p <;> cases a <;> rfl

theorem emits_writeByte (b : Byte) (s : State) :
    Emits (byteEvents s.cfg.ackDrivePolicy b (s.answer 0)) s (writeByte b s) := by
  rw [writeByte_eq]
  exact {
    tr := rfl
    clkDrv := (foldl_clkAfter_byteEvents ..).symm
    dioDrv := (foldl_dioAfter_byteEvents ..).symm
    ackLast := by rw [lastSample_byteEvents]; rfl
    samples := fun d => by simpa only [List.append_nil, samplesOk] using samplesOk_byteEvents d _ b _ [] }

theorem emits_writeBytes (bs : List Byte) (s : State) : ∃ es, Emits es s (writeBytes bs s) := by
  induction bs generalizing s with
  | nil => exact ⟨[], .nothing rfl rfl rfl rfl⟩
  | cons b bs ih =>
    obtain ⟨es, h⟩ := ih (writeByte b s)
    exact ⟨_, (emits_writeByte b s).trans h⟩

theorem emits_sendFrame (bs : List Byte) (s : State) : ∃ es, Emits es s (sendFrame bs s) := by
  obtain ⟨es, h⟩ := emits_writeBytes bs (startCond s)
  exact ⟨_, ((emits_startCond s).trans h).trans (emits_stopCond _)⟩

theorem emits_flush (s : State) : ∃ es, Emits es s (flush s) := by
  obtain ⟨es₁, h₁⟩ := emits_sendFrame [s.cfg.cmdSetData] s
  obtain ⟨es₂, h₂⟩ := emits_sendFrame ((s.cfg.cmdSetAddr ||| 0x00#8) :: wireData s) (sendFrame [s.cfg.cmdSetData] s)
  obtain ⟨es₃, h₃⟩ := emits_sendFrame [displayByte s.cfg.cmdDisplay s.bright]
    (sendFrame ((s.cfg.cmdSetAddr ||| 0x00#8) :: wireData s) (sendFrame [s.cfg.cmdSetData] s))
  exact ⟨_, (h₁.trans h₂).trans h₃⟩

/-- A write to LIVE and a flush: the write puts nothing onto the wire. -/
theorem emits_flushed_withLive (l : List Byte) (s : State) : ∃ es, Emits es s (flushed { s with live := l }) := by
  have hwrite : Emits [] s { s with live := l } := .nothing rfl rfl rfl rfl
  obtain ⟨es, hflush⟩ := emits_flush { s with live := l }
  rw [flush_eq] at hflush
  exact ⟨_, hwrite.trans hflush⟩

/-- Every command puts some events onto the wire: none, INIT's release, a framer primitive's or a flush's. -/
theorem exec_emits {i : Instr} {s t : State} (h : exec i s = .next t) : ∃ es, Emits es s t := by
  cases effect_of_exec h with
  | outOfRange | reader | wscr | sflip | sbrt => exact ⟨[], .nothing rfl rfl rfl rfl⟩
  | writer _ l => exact emits_flushed_withLive l s
  | release => exact ⟨_, emits_release s⟩
  | releaseClear l =>
    obtain ⟨es, hes⟩ := emits_flushed_withLive l
      { s with clkDrv := false, dioDrv := false, tr := s.tr ++ [.clkRel, .dioRel] }
    exact ⟨_, (emits_release s).trans hes⟩
  | bstart => exact ⟨_, emits_startCond s⟩
  | bstop => exact ⟨_, emits_stopCond s⟩
  | bwrite b => exact ⟨_, (emits_writeByte b s).trans (.nothing rfl rfl rfl rfl)⟩

/-! The invariants of the trace are kept by whatever goes onto the wire. -/

theorem Emits.pinsFollowTrace {es : List Event} {s t : State} (h : Emits es s t) (hs : PinsFollowTrace s) :
    PinsFollowTrace t := by
  obtain ⟨hclk, hdio⟩ := hs
  constructor
  · rw [h.clkDrv, h.tr, drivenBy_append, hclk]
    simp only [clkAfter_eq]
  · rw [h.dioDrv, h.tr, drivenBy_append, hdio]
    simp only [dioAfter_eq]

theorem Emits.ackFollowsTrace {es : List Event} {s t : State} (h : Emits es s t) (hs : AckFollowsTrace s) :
    AckFollowsTrace t := by
  intro a ha
  rw [h.tr, lastSample_append] at ha
  rw [h.ackLast]
  cases hes : lastSample es with
  | none =>
    rw [hes, Option.none_or] at ha
    exact hs a ha
  | some b =>
    rw [hes, Option.some_or] at ha
    exact congrArg (· == .low) (Option.some.inj ha)

theorem Emits.samplesReleased {es : List Event} {s t : State} (h : Emits es s t) (hs : SamplesReleased s.tr) :
    SamplesReleased t.tr := by
  rw [samplesReleased_iff] at hs ⊢
  rw [h.tr, samplesOk_append, hs, h.samples, Bool.and_self]

/-- Settles O18: a command leaves the drive bits its events make. -/
theorem stepKeepsPinsFollowTrace : Obligations.StepKeepsPinsFollowTrace := by
  unfold Obligations.StepKeepsPinsFollowTrace
  refine fun s t => step_keeps (fun _ _ h => h) (fun _ _ _ h => h) fun i s t hs h => ?_
  obtain ⟨es, hes⟩ := exec_emits h
  exact hes.pinsFollowTrace hs

/-- Settles O19: a command leaves the ACK_LAST of its last sample, and the old one if it takes none. -/
theorem stepKeepsAckFollowsTrace : Obligations.StepKeepsAckFollowsTrace := by
  unfold Obligations.StepKeepsAckFollowsTrace
  refine fun s t => step_keeps (fun _ _ h => h) (fun _ _ _ h => h) fun i s t hs h => ?_
  obtain ⟨es, hes⟩ := exec_emits h
  exact hes.ackFollowsTrace hs

/-- Settles O20: every acknowledgement phase releases DIO before its sample. -/
theorem stepKeepsSamplesReleased : Obligations.StepKeepsSamplesReleased := by
  unfold Obligations.StepKeepsSamplesReleased
  refine fun s t => step_keeps (P := fun s => SamplesReleased s.tr) (fun _ _ h => h) (fun _ _ _ h => h) fun i s t hs h => ?_
  obtain ⟨es, hes⟩ := exec_emits h
  exact hes.samplesReleased hs

/-! Reset. -/

theorem openParams_wf (w : Width) : (Config.openParams w).wf = true := by
  have hdot : ∀ x : Byte, (x &&& 0x7F#8).getLsbD 7 = false := fun x => by
    rw [getLsbD_and_segments]
    rfl
  have hnibble : Config.openCmdDisplay &&& 0xF0#8 &&& 0x0F#8 = 0#8 := by
    rw [BitVec.and_assoc]
    exact BitVec.and_zero
  refine (config_wf_iff _).mpr ⟨?_, ?_, List.forall_mem_map.mpr fun _ _ => hdot _,
    List.forall_mem_map.mpr fun _ _ => hdot _, hdot _, hnibble⟩
  · rw [Config.openParams, List.length_map, List.length_range]
  · rw [Config.openParams, List.length_map, List.length_range]

/-- Settles O16: the trace of a fresh block is empty and its pins are released, and the open values are masked. -/
theorem resetMeetsTheInvariants : Obligations.ResetMeetsTheInvariants := by
  unfold Obligations.ResetMeetsTheInvariants
  exact ⟨⟨construct_live_length .., construct_scr_length ..⟩, ⟨rfl, rfl⟩, fun _ h => (Option.some_ne_none _ h.symm).elim,
    (samplesReleased_iff _).mpr rfl, openParams_wf .four⟩

end Sys2Proof.Machine

/-! ## Proofs: BWRITE (42_framer.md R132, R134) -/

namespace Sys2Proof.Machine

/-- Settles O33: BWRITE is WriteByte, and responds the ACK_LAST it leaves. -/
theorem bwriteSendsAByte : Obligations.BwriteSendsAByte := by
  unfold Obligations.BwriteSendsAByte
  intro s b
  rw [← drivesAfter_eq, exec, execBwrite, writeByte_eq]
  rfl

/-- Every DIO action of a trace falls while CLK is driven low, but for a DIO_LO right after a sample. `clk` is whether CLK
is driven low before the trace and `last` the event before it. -/
def DioGuarded : Bool → Option Event → List Event → Prop
  | _, _, [] => True
  | clk, last, e :: es =>
    (e = .dioLo ∨ e = .dioRel → clk = true ∨ (e = .dioLo ∧ ∃ a, last = some (.sample a))) ∧
      DioGuarded (clkAfter e clk) (some e) es

theorem dioGuarded_slotEvents (clk : Bool) (last : Option Event) (bit : Bool) (es : List Event) :
    DioGuarded clk last (slotEvents bit ++ es) ↔ DioGuarded false (some .wait) es := by
  cases bit <;> simp [slotEvents, DioGuarded, clkAfter]

theorem dioGuarded_ackEvents (clk : Bool) (last : Option Event) (p : AckDrivePolicy) (a : Level) :
    DioGuarded clk last (ackEvents p a) := by
  cases p <;> cases a <;> simp [ackEvents, DioGuarded, clkAfter]

/-- A byte: each slot acts on DIO right after CLK_LO, and so does the acknowledgement phase, but for the drive after its
sample. -/
theorem dioGuarded_byteEvents (clk : Bool) (last : Option Event) (p : AckDrivePolicy) (b : Byte) (a : Level) :
    DioGuarded clk last (byteEvents p b a) := by
  simp only [byteEvents, List.append_assoc, dioGuarded_slotEvents]
  exact dioGuarded_ackEvents ..

/-- What `DioGuarded` says of each event of the trace. -/
theorem DioGuarded.at_event {clk : Bool} {last : Option Event} {before after : List Event} {e : Event}
    (h : DioGuarded clk last (before ++ e :: after)) (he : e = .dioLo ∨ e = .dioRel) :
    before.foldl (fun d e => clkAfter e d) clk = true ∨
      (e = .dioLo ∧ ∃ a, before.getLast?.or last = some (.sample a)) := by
  induction before generalizing clk last with
  | nil => exact h.1 he
  | cons e' before ih =>
    obtain ⟨-, hrest⟩ := h
    simpa only [List.foldl_cons, List.getLast?_cons, Option.some_or, Option.or_some] using ih hrest

/-- Settles O34: BWRITE's events are one byte's. -/
theorem dioMovesUnderALowClock : Obligations.DioMovesUnderALowClock := by
  unfold Obligations.DioMovesUnderALowClock
  intro s t b before after e h hsplit he
  have hbyte : newEvents s t = byteEvents s.cfg.ackDrivePolicy b (s.answer 0) := by
    rw [← Host.Outcome.next.inj h]
    exact newEvents_writeByte b s
  have hguarded : DioGuarded false none (before ++ e :: after) := by
    rw [← hsplit, hbyte]
    exact dioGuarded_byteEvents ..
  simpa only [drivenBy, clkAfter_eq, Option.or_none] using hguarded.at_event he

end Sys2Proof.Machine

/-! ## Proofs: RAWFRAME (30_encoding.md R83, R84, R87) -/

namespace Sys2Proof.Machine

/-- A command with a next state goes first. -/
theorem execAll_cons {i : Instr} {is : List Instr} {s t : State} (h : exec i s = .next t) :
    execAll (i :: is) s = execAll is t := by
  rw [execAll, h]

/-- A byte sent after a response is the byte, then the response: the framer does not read the responses. -/
theorem writeBytes_respond (bs : List Byte) (r : Response) (s : State) :
    writeBytes bs (respond r s) = respond r (writeBytes bs s) := by
  have hbyte : ∀ (b : Byte) (t : State), writeByte b (respond r t) = respond r (writeByte b t) := fun b t => by
    rw [writeByte_eq, writeByte_eq]
    rfl
  induction bs generalizing s with
  | nil => rfl
  | cons b bs ih => exact (congrArg (writeBytes bs) (hbyte b s)).trans (ih (writeByte b s))

/-- After one byte the samples to come are the old ones from number 1 on. -/
theorem answer_writeByte (b : Byte) (s : State) (k : Nat) : (writeByte b s).answer k = s.answer (k + 1) := by
  rw [← answer_drop]
  exact congrFun (answer_congr (by rw [writeByte_eq]) (by rw [writeByte_eq])) k

/-- BWRITE by BWRITE, several bytes: WriteByte of each, and the responses in order. -/
theorem execAll_bwrites (bs : List Byte) (is : List Instr) (s : State) :
    execAll (bs.map .bwrite ++ is) s = execAll is { writeBytes bs s with
      resps := s.resps ++ (List.range bs.length).map fun k => .bit (s.answer k == .low) } := by
  induction bs generalizing s with
  | nil =>
    simp only [List.map_nil, List.nil_append, List.length_nil, List.range_zero, List.append_nil]
    rfl
  | cons b bs ih =>
    have hfirst : exec (.bwrite b) s = .next (respond (.bit (s.answer 0 == .low)) (writeByte b s)) := by
      rw [← writeByte_ackLast b s]
      rfl
    have hlater : ∀ k, (respond (.bit (s.answer 0 == .low)) (writeByte b s)).answer k = s.answer (k + 1) :=
      answer_writeByte b s
    have hbytes : writeBytes (b :: bs) s = writeBytes bs (writeByte b s) := rfl
    rw [List.map_cons, List.cons_append, execAll_cons hfirst, ih, writeBytes_respond, hbytes]
    simp only [hlater, respond_resps, writeByte_resps, List.length_cons, List.range_succ_eq_map, List.map_cons,
      List.map_map, List.append_assoc, List.singleton_append]
    rfl

/-- Start takes no sample. -/
theorem answer_startCond (s : State) : (startCond s).answer = s.answer := by
  rw [startCond_eq]
  exact answer_congr rfl rfl

/-- RAWFRAME is one frame, and one response a byte. -/
theorem execAll_rawFrame (bs : List Byte) (s : State) :
    execAll (Pseudo.rawFrame bs).expand s = .next { sendFrame bs s with
      resps := s.resps ++ (List.range bs.length).map fun k => .bit (s.answer k == .low) } := by
  have hstart : exec .bstart s = .next (startCond s) := rfl
  have hresps : (startCond s).resps = s.resps := by rw [startCond_eq]
  rw [Pseudo.expand, List.cons_append, execAll_cons hstart, execAll_bwrites, answer_startCond, hresps]
  exact congrArg Host.Outcome.next (by rw [stopCond_eq, sendFrame, stopCond_eq])

/-- What one frame of any bytes, none included, leaves. -/
theorem sendFrame_frame (bs : List Byte) (s : State) : ∃ (ack : Bool) (dioIn : List Level) (draws : Nat),
    sendFrame bs s = { s with
      clkDrv := false, dioDrv := false, tr := s.tr ++ frameEvents s.cfg.ackDrivePolicy s.answer 0 bs
      ackLast := ack, dioIn := dioIn, draws := draws } := by
  obtain ⟨c, d, h⟩ := writeBytes_eq bs (startCond s)
  refine ⟨(writeBytes bs (startCond s)).ackLast, (writeBytes bs (startCond s)).dioIn,
    (writeBytes bs (startCond s)).draws, ?_⟩
  rw [sendFrame, h, stopCond_eq, answer_startCond, frameEvents]
  simp only [startCond_eq, List.append_assoc]

/-- Settles O35: the commands of RAWFRAME make one frame. -/
theorem rawFrameSendsOneFrame : Obligations.RawFrameSendsOneFrame := by
  unfold Obligations.RawFrameSendsOneFrame
  intro s bytes
  obtain ⟨ack, dioIn, draws, hframe⟩ := sendFrame_frame bytes s
  refine ⟨_, execAll_rawFrame bytes s, ?_⟩
  rw [hframe]
  exact ⟨rfl, rfl, rfl, rfl, rfl, rfl, rfl, rfl, rfl⟩

end Sys2Proof.Machine

/-! ## Proofs: the buffer's commands (43_buffer.md R158 to R172) -/

namespace Sys2Proof.Machine

/-- Settles O36: the word of format P, and the two outcomes of the range check. -/
theorem wscrWritesOneScratchEntry : Obligations.WscrWritesOneScratchEntry := by
  unfold Obligations.WscrWritesOneScratchEntry
  exact fun s pos code => ⟨Laws.positionWord_eq_or 0x3#4 pos code, exec_wscr_inRange code,
    fun hp => exec_outOfRange (i := .wscr pos code) hp⟩

/-- Settles O37: the two outcomes of the range check. -/
theorem wsegWritesOneEntryAndFlushes : Obligations.WsegWritesOneEntryAndFlushes := by
  unfold Obligations.WsegWritesOneEntryAndFlushes
  exact fun s pos code => ⟨exec_wseg_inRange code, fun hp => exec_outOfRange (i := .wseg pos code) hp⟩

/-- Settles O38: the copy on exact buffers, and the range check. -/
theorem commitCopiesScratchAndFlushes : Obligations.CommitCopiesScratchAndFlushes := by
  unfold Obligations.CommitCopiesScratchAndFlushes
  exact fun s len pos hs => ⟨exec_commit_exact hs, fun hr => exec_outOfRange (i := .commit len pos) hr⟩

/-- A blank buffer is sent blank under either orientation. -/
theorem wireData_of_readLive_zero {s : State} (h : ∀ k, readLive s k = 0x00#8) :
    wireData s = List.replicate s.width 0x00#8 := by
  have hbyte : ∀ k, wireByte s k = 0x00#8 := fun k => by
    have hdot : (if k + 2 ≤ s.width then (0x00#8 &&& 0x80#8 : Byte) else 0x00#8) = 0x00#8 := ite_self _
    rw [wireByte, flipOut, h, h, h, hdot]
    exact ite_self _
  rw [wireData, List.map_congr_left fun k _ => hbyte k, List.map_const', List.length_range]

/-- Settles O39: CLR's clearing on an exact buffer, and the flush of a blank one. -/
theorem clrZeroesAndFlushes : Obligations.ClrZeroesAndFlushes := by
  unfold Obligations.ClrZeroesAndFlushes
  refine fun s h => ⟨exec_clr_exact h, ?_⟩
  apply wireData_of_readLive_zero
  intro k
  by_cases hk : k < s.width
  · exact List.getD_replicate _ hk
  · exact List.getD_eq_default _ _ (by simpa using hk)

/-- Settles O41: SFLIP and GFLIP as the machine writes them. -/
theorem flipIsSetAndRead : Obligations.FlipIsSetAndRead := by
  unfold Obligations.FlipIsSetAndRead
  refine ⟨fun s b => ⟨?word, rfl⟩, rfl, fun s => rfl⟩
  case word => cases b <;> rfl

/-- Settles O43: INIT's release, and on an exact buffer the clearing after it. -/
theorem initReleasesAndMayClear : Obligations.InitReleasesAndMayClear := by
  unfold Obligations.InitReleasesAndMayClear
  exact fun s => ⟨exec_init_false s, exec_init_true_exact⟩

end Sys2Proof.Machine

/-! ## Proofs: SETSEGS (43_buffer.md R163) -/

namespace Sys2Proof.Machine

theorem width_le_six (s : State) : s.width ≤ 6 := by
  have hcount : ∀ w : Width, w.count ≤ 6 := fun w => by cases w <;> decide
  exact hcount s.cfg.width

/-- A position or a length up to N fits its 3-bit field. -/
theorem toNat_ofNat_three {s : State} {k : Nat} (h : k ≤ s.width) : (BitVec.ofNat 3 k).toNat = k := by
  have hwidth := width_le_six s
  rw [BitVec.toNat_ofNat, Nat.mod_eq_of_lt (by omega)]

/-- The scratch writes of SETSEGS put the codes at SCR[k..]. -/
theorem execAll_scratchWrites (codes : List Byte) (k : Nat) (is : List Instr) {s : State}
    (hs : s.scr.length = s.width) (hk : k + codes.length ≤ s.width) :
    execAll (scratchWrites k codes ++ is) s =
      execAll is { s with scr := s.scr.take k ++ codes ++ s.scr.drop (k + codes.length) } := by
  induction codes generalizing k s with
  | nil => simp only [scratchWrites, List.nil_append, List.append_nil, List.length_nil, Nat.add_zero, List.take_append_drop]
  | cons c cs ih =>
    rw [List.length_cons] at hk
    have hpos : (BitVec.ofNat 3 k).toNat = k := toNat_ofNat_three (s := s) (by omega)
    have hfirst : exec (.wscr (BitVec.ofNat 3 k) c) s = .next (writeScr k c s) := by
      rw [exec_wscr_inRange c (by omega), hpos]
    have htake : (s.scr.set k c).take (k + 1) = s.scr.take k ++ [c] := by
      rw [List.take_add_one, List.take_set_of_le le_rfl, List.getElem?_set_self (by omega), Option.toList_some]
    have hdrop : (s.scr.set k c).drop (k + 1 + cs.length) = s.scr.drop (k + (cs.length + 1)) := by
      rw [List.drop_set_of_lt (by omega), show k + 1 + cs.length = k + (cs.length + 1) by omega]
    have hlater := ih (k + 1) (s := writeScr k c s) (List.length_set.trans hs)
      (by rw [show (writeScr k c s).width = s.width from rfl]; omega)
    rw [scratchWrites, List.cons_append, execAll_cons hfirst, hlater, writeScr_scr, htake, hdrop]
    simp only [List.append_assoc, List.singleton_append, List.length_cons]
    rfl

/-- Settles O57: the scratch writes leave the codes in SCR, and COMMIT copies them. -/
theorem setSegsReproducesSetSegments : Obligations.SetSegsReproducesSetSegments := by
  unfold Obligations.SetSegsReproducesSetSegments
  intro s pos codes ⟨hlive, hscr⟩ hcodes hp hl
  have hlen : (BitVec.ofNat 3 codes.length).toNat = codes.length := toNat_ofNat_three hcodes
  have hwritten : BuffersExact { s with scr := codes ++ s.scr.drop codes.length } := by
    refine ⟨hlive, ?_⟩
    rw [List.length_append, List.length_drop, hscr]
    exact Nat.add_sub_of_le hcodes
  have hcommit := exec_commit_exact hwritten hp (len := BitVec.ofNat 3 codes.length) (by rwa [hlen])
  rw [hlen, List.take_left] at hcommit
  rw [Pseudo.expand, execAll_scratchWrites codes 0 _ hscr (by omega), Nat.zero_add, List.take_zero, List.nil_append,
    execAll_cons hcommit, execAll]

end Sys2Proof.Machine

/-! ## Proofs: a receiver on the two lines (20_memory.md R53, 42_framer.md R134) -/

namespace Sys2Proof.Machine

/-- One more bit in a receiver's byte: least-significant bit first, so each bit enters at the top. -/
def shiftIn (x : Byte) (bit : Bool) : Byte := (x >>> 1) ||| if bit then 0x80#8 else 0x00#8

theorem getLsbD_shiftIn (x : Byte) (bit : Bool) (i : Nat) :
    (shiftIn x bit).getLsbD i = if i = 7 then bit else x.getLsbD (i + 1) := by
  by_cases hi : i < 8
  · cases bit <;> interval_cases i <;> simp [shiftIn]
  · rw [BitVec.getLsbD_of_ge _ i (not_lt.mp hi), if_neg (by omega), BitVec.getLsbD_of_ge x (i + 1) (by omega)]

/-- After eight bits nothing of the old byte is left. -/
theorem shiftIn_eight_bits (x b : Byte) :
    shiftIn (shiftIn (shiftIn (shiftIn (shiftIn (shiftIn (shiftIn (shiftIn x (b.getLsbD 0)) (b.getLsbD 1)) (b.getLsbD 2))
      (b.getLsbD 3)) (b.getLsbD 4)) (b.getLsbD 5)) (b.getLsbD 6)) (b.getLsbD 7) = b := by
  apply BitVec.eq_of_getLsbD_eq
  intro i hi
  simp only [getLsbD_shiftIn]
  interval_cases i <;> rfl

namespace Receiver

/-- Between frames: both lines released. -/
structure Idle (frames : List (List Byte)) (r : Receiver) : Prop where
  clk : r.clk = false
  dio : r.dio = false
  frames : r.frames = frames

/-- Inside a frame and between two bytes: some line is driven, so that driving DIO is no start. -/
structure InFrame (frames : List (List Byte)) (bytes : List Byte) (r : Receiver) : Prop where
  driven : (r.clk || r.dio) = true
  clocks : r.clocks = 0
  bytes : r.bytes = bytes
  frames : r.frames = frames

/-- A slot is seen as one bit. -/
theorem foldl_see_slotEvents (bit : Bool) {r : Receiver} (h : r.clocks ≠ 8) :
    (slotEvents bit).foldl see r =
      { r with clk := false, dio := !bit, clocks := r.clocks + 1, byte := shiftIn r.byte bit } := by
  cases bit <;> simp [slotEvents, see, h, shiftIn]

/-- The eight slots of a byte are seen as the byte. -/
theorem foldl_see_slots (b : Byte) {r : Receiver} (h : r.clocks = 0) :
    (slotEvents (b.getLsbD 0) ++ slotEvents (b.getLsbD 1) ++ slotEvents (b.getLsbD 2) ++ slotEvents (b.getLsbD 3) ++
      slotEvents (b.getLsbD 4) ++ slotEvents (b.getLsbD 5) ++ slotEvents (b.getLsbD 6) ++
      slotEvents (b.getLsbD 7)).foldl see r =
      { r with clk := false, dio := !b.getLsbD 7, clocks := 8, byte := b } := by
  simp only [List.foldl_append, foldl_see_slotEvents, h, ne_eq, Nat.reduceEqDiff, not_false_eq_true, Nat.zero_add,
    Nat.reduceAdd, shiftIn_eight_bits]

/-- The ninth clock ends the byte; acknowledged under ON_NACK, no drive follows its sample. -/
theorem foldl_see_ackEvents {r : Receiver} (h : r.clocks = 8) :
    (ackEvents .onNack .low).foldl see r =
      { r with clk := true, dio := false, clocks := 0, bytes := r.bytes ++ [r.byte] } := by
  simp [ackEvents, see, h]

theorem inFrame_of_start {frames : List (List Byte)} {r : Receiver} (h : Idle frames r) :
    InFrame frames [] ([Event.dioLo, .wait].foldl see r) := by
  have hstart : [Event.dioLo, .wait].foldl see r = { r with dio := true, clocks := 0, bytes := [] } := by
    simp [see, h.clk, h.dio]
  rw [hstart]
  exact ⟨Bool.or_true _, rfl, rfl, h.frames⟩

theorem InFrame.byte {frames : List (List Byte)} {bytes : List Byte} {r : Receiver} (h : InFrame frames bytes r)
    (b : Byte) : InFrame frames (bytes ++ [b]) ((byteEvents .onNack b .low).foldl see r) := by
  rw [byteEvents, List.foldl_append, foldl_see_slots b h.clocks, foldl_see_ackEvents rfl]
  exact ⟨rfl, rfl, congrArg (· ++ [b]) h.bytes, h.frames⟩

theorem InFrame.bytesEvents {frames : List (List Byte)} {bytes : List Byte} {r : Receiver} (h : InFrame frames bytes r)
    {f : Nat → Level} {k : Nat} {bs : List Byte} (hf : ∀ j, k ≤ j → j < k + bs.length → f j = .low) :
    InFrame frames (bytes ++ bs) ((bytesEvents .onNack f k bs).foldl see r) := by
  induction bs generalizing r bytes k with
  | nil => simpa only [Machine.bytesEvents, List.append_nil, List.foldl_nil] using h
  | cons b bs ih =>
    rw [List.length_cons] at hf
    have hrest := ih (h.byte b) (k := k + 1) fun j hj hj' => hf j (by omega) (by omega)
    rw [Machine.bytesEvents, List.foldl_append, hf k le_rfl (by omega)]
    rwa [List.append_assoc, List.singleton_append] at hrest

theorem InFrame.stop {frames : List (List Byte)} {bytes : List Byte} {r : Receiver} (h : InFrame frames bytes r) :
    Idle (frames ++ [bytes]) ([Event.dioLo, .wait, .clkRel, .wait, .dioRel, .wait].foldl see r) := by
  have hframes : r.frames ++ [r.bytes] = frames ++ [bytes] := by rw [h.frames, h.bytes]
  have hdriven := h.driven
  constructor <;> simp [see, hdriven, h.clocks, hframes]

/-- A frame of acknowledged bytes is read as its bytes. -/
theorem Idle.frameEvents {frames : List (List Byte)} {r : Receiver} (h : Idle frames r) {f : Nat → Level} {k : Nat}
    {bs : List Byte} (hf : ∀ j, k ≤ j → j < k + bs.length → f j = .low) :
    Idle (frames ++ [bs]) ((frameEvents .onNack f k bs).foldl see r) := by
  rw [Machine.frameEvents, List.foldl_append, List.foldl_append]
  exact ((inFrame_of_start h).bytesEvents hf).stop

end Receiver

/-- A flush of acknowledged bytes is read as its three frames. -/
theorem framesSeen_flushEvents {c : Config} (hc : c.ackDrivePolicy = .onNack) {f : Nat → Level} {data : List Byte}
    (hf : ∀ k, k < data.length + 3 → f k = .low) (bright : BitVec 4) :
    framesSeen (flushEvents c f data bright) =
      [[c.cmdSetData], (c.cmdSetAddr ||| 0x00#8) :: data, [c.cmdDisplay ||| bright.setWidth 8]] := by
  have hstart : Receiver.Idle [] {} := ⟨rfl, rfl, rfl⟩
  have hone := hstart.frameEvents (f := f) (k := 0) (bs := [c.cmdSetData]) fun j _ hj => hf j (by simp at hj; omega)
  have htwo := hone.frameEvents (f := f) (k := 1) (bs := (c.cmdSetAddr ||| 0x00#8) :: data)
    fun j _ hj => hf j (by simp at hj; omega)
  have hthree := htwo.frameEvents (f := f) (k := data.length + 2) (bs := [c.cmdDisplay ||| bright.setWidth 8])
    fun j _ hj => hf j (by simp at hj; omega)
  rw [framesSeen, flushEvents, hc, List.foldl_append, List.foldl_append, hthree.frames]
  rfl

/-- FLUSH appends one flush of the buffer. -/
theorem newEvents_commit_zero {s t : State} (h : exec (.commit 0#3 0#3) s = .next t) :
    newEvents s t = flushEvents s.cfg s.answer (wireData s) s.bright := by
  rw [← Host.Outcome.next.inj ((exec_commit_zero s).symm.trans h)]
  exact newEvents_of_append rfl

/-- Settles O45: the receiver follows the flush frame by frame. -/
theorem receiverReadsTheThreeFrames : Obligations.ReceiverReadsTheThreeFrames := by
  unfold Obligations.ReceiverReadsTheThreeFrames
  intro s t _ _ hpolicy hanswers h
  rw [newEvents_commit_zero h, framesSeen_flushEvents hpolicy (by rwa [wireData_length]), BitVec.or_zero]

end Sys2Proof.Machine

/-! ## Proofs: which commands write which field (10_state.md R24 to R30) -/

namespace Sys2Proof.Machine

@[simp] theorem writeByte_flip (b : Byte) (s : State) : (writeByte b s).flip = s.flip := by
  rw [writeByte_eq]

@[simp] theorem writeByte_bright (b : Byte) (s : State) : (writeByte b s).bright = s.bright := by
  rw [writeByte_eq]

@[simp] theorem emitAll_flip (es : List Event) (s : State) : (emitAll es s).flip = s.flip := by
  rw [emitAll_eq]

@[simp] theorem emitAll_bright (es : List Event) (s : State) : (emitAll es s).bright = s.bright := by
  rw [emitAll_eq]

@[simp] theorem emitAll_ackLast (es : List Event) (s : State) : (emitAll es s).ackLast = s.ackLast := by
  rw [emitAll_eq]

/-- Settles O50, effect by effect: each writes its one field, and a flush and a byte write ACK_LAST alone of the four. -/
theorem onlyTheNamedCommandsWrite : Obligations.OnlyTheNamedCommandsWrite := by
  unfold Obligations.OnlyTheNamedCommandsWrite
  intro i s t h
  cases effect_of_exec h with
  | outOfRange | reader | release => exact ⟨absurd rfl, absurd rfl, absurd rfl, absurd rfl⟩
  | bstart | bstop =>
    exact ⟨absurd (emitAll_scr _ s), absurd (emitAll_flip _ s), absurd (emitAll_bright _ s), absurd (emitAll_ackLast _ s)⟩
  | wscr => exact ⟨fun _ => ⟨_, _, rfl⟩, absurd rfl, absurd rfl, absurd rfl⟩
  | sflip b => exact ⟨absurd rfl, fun _ => ⟨b, rfl⟩, absurd rfl, absurd rfl⟩
  | sbrt level on => exact ⟨absurd rfl, absurd rfl, fun _ => ⟨level, on, rfl⟩, absurd rfl⟩
  | writer hi l =>
    refine ⟨absurd rfl, absurd rfl, absurd rfl, fun _ => ?_⟩
    obtain hwseg | hcommit | hclr := hi
    · exact .inl hwseg
    · exact .inr (.inl hcommit)
    · exact .inr (.inr (.inl hclr))
  | releaseClear l => exact ⟨absurd rfl, absurd rfl, absurd rfl, fun _ => .inr (.inr (.inr (.inl rfl)))⟩
  | bwrite b =>
    exact ⟨absurd (writeByte_scr b s), absurd (writeByte_flip b s), absurd (writeByte_bright b s),
      fun _ => .inr (.inr (.inr (.inr ⟨b, rfl⟩)))⟩

end Sys2Proof.Machine

/-! ## Proofs: every command ends (60_exceptions.md R204) -/

namespace Sys2Proof.Machine

/-- A byte has at most one drive after its sample. -/
theorem length_byteEvents_le (p : AckDrivePolicy) (b : Byte) (a : Level) : (byteEvents p b a).length ≤ 50 := by
  have hsamples := drivesIn_le_samplesIn p (byteEvents p b a)
  rw [samplesIn_byteEvents, drivesIn_byteEvents] at hsamples
  rw [length_byteEvents]
  omega

/-- A flush has at most one drive after each of its N + 3 samples. -/
theorem length_flushed_tr_le {s : State} {n m : Nat} (hn : s.tr.length = n) (hm : s.width = m) :
    (flushed s).tr.length ≤ n + (24 + 50 * (m + 3)) := by
  have htr : (flushed s).tr = s.tr ++ flushEvents s.cfg s.answer (wireData s) s.bright := rfl
  have hdrives := drivesIn_le_samplesIn s.cfg.ackDrivePolicy (flushEvents s.cfg s.answer (wireData s) s.bright)
  rw [samplesIn_flushEvents] at hdrives
  rw [htr, List.length_append, length_flushEvents]
  rw [wireData_length] at hdrives ⊢
  omega

/-- How many events a command appends at most: a flush, INIT 1 its two release events more. -/
theorem effect_tr_length_le {i : Instr} {s t : State} (h : Effect s i t) :
    t.tr.length ≤ s.tr.length + (24 + 50 * (s.width + 3)) + if i = .init true then 2 else 0 := by
  have hrelease : (s.tr ++ [Event.clkRel, .dioRel]).length = s.tr.length + 2 := List.length_append
  cases h with
  | outOfRange | reader | wscr | sflip | sbrt => exact Nat.le_add_right_of_le (Nat.le_add_right ..)
  | writer _ l => exact Nat.le_add_right_of_le (length_flushed_tr_le rfl rfl)
  | releaseClear l =>
    rw [if_pos rfl]
    exact (length_flushed_tr_le hrelease rfl).trans_eq (Nat.add_right_comm ..)
  | release =>
    refine hrelease.trans_le ?_
    omega
  | bstart =>
    rw [startCond, emitAll_tr, List.length_append, List.length_cons, List.length_singleton]
    omega
  | bstop =>
    rw [stopCond, emitAll_tr, List.length_append]
    simp only [List.length_cons, List.length_nil]
    omega
  | bwrite b =>
    have hbyte := length_byteEvents_le s.cfg.ackDrivePolicy b (s.answer 0)
    rw [respond_tr, writeByte_eq, List.length_append]
    omega

/-- Settles O47: every command has its effect, and the effect's events are bounded. -/
theorem everyCommandEnds : Obligations.EveryCommandEnds := by
  unfold Obligations.EveryCommandEnds
  intro i s
  obtain ⟨t, ht, heffect⟩ := exec_effect i s
  exact ⟨t, ht, effect_tr_length_le heffect⟩

end Sys2Proof.Machine

/-! ## Proofs: FLIP and BRIGHT act at the next flush (70_reset_and_hazards.md R220) -/

namespace Sys2Proof.Machine

/-- The packed nibble is the on flag above the level. -/
theorem packBright_eq_append (level : Byte) (on : Bool) :
    packBright level on = BitVec.ofBool on ++ level.extractLsb' 0 3 := by
  apply BitVec.eq_of_getLsbD_eq
  intro i hi
  rw [getLsbD_packBright, BitVec.getLsbD_append]
  interval_cases i <;> simp

/-- Settles O54: both commands write their one field, and FLUSH sends the state they leave. -/
theorem orientationAndBrightnessTakeEffectAtTheFlush : Obligations.OrientationAndBrightnessTakeEffectAtTheFlush := by
  unfold Obligations.OrientationAndBrightnessTakeEffectAtTheFlush
  refine ⟨fun s t b h => ?sflip, fun s t level on h => ?sbrt⟩
  case sflip =>
    rw [← Host.Outcome.next.inj h]
    exact ⟨rfl, ⟨_, rfl, rfl⟩, _, exec_commit_zero _, rfl⟩
  case sbrt =>
    rw [← Host.Outcome.next.inj h, ← packBright_eq_append]
    exact ⟨rfl, _, exec_commit_zero _, rfl⟩

end Sys2Proof.Machine

/-! ## Proofs: LIVE does not depend on FLIP (10_state.md R22) -/

namespace Sys2Proof.Machine

/-- The LIVE a command in range leaves. -/
def liveAfter (s : State) : Instr → List Byte
  | .wseg pos code => (writeLive pos.toNat code s).live
  | .commit len pos => (copyScratch len.toNat pos.toNat s).live
  | .clr => (clearLive s).live
  | .init clr => if clr then (clearLive s).live else s.live
  | .encd _ => s.live
  | .enca _ => s.live
  | .wscr _ _ => s.live
  | .rdbuf => s.live
  | .sflip _ => s.live
  | .gflip => s.live
  | .sbrt _ _ => s.live
  | .bstart => s.live
  | .bstop => s.live
  | .bwrite _ => s.live

theorem exec_live_inRange {i : Instr} {s t : State} (h : exec i s = .next t) (hr : ¬ OutOfRange s.width i) :
    t.live = liveAfter s i := by
  have of_next : ∀ u : State, exec i s = .next u → u.live = liveAfter s i → t.live = liveAfter s i := fun u hu hlive => by
    rw [Host.Outcome.next.inj (h.symm.trans hu), hlive]
  cases i with
  | wscr pos code => exact of_next _ (exec_wscr_inRange code (not_le.mp hr)) rfl
  | wseg pos code => exact of_next _ (exec_wseg_inRange code (not_le.mp hr)) rfl
  | commit len pos =>
    obtain ⟨hp, hl⟩ := not_or.mp hr
    exact of_next _ (exec_commit_inRange (not_le.mp hp) (not_lt.mp hl)) rfl
  | clr => exact of_next _ (exec_clr s) rfl
  | init clr =>
    cases clr with
    | false => exact of_next _ (exec_init_false s) rfl
    | true => exact of_next _ (exec_init_true s) (by rw [flushed_live, liveAfter, if_pos rfl, clearLive_eq, clearLive_eq])
  | bwrite b => exact of_next _ rfl (writeByte_live b s)
  | bstart | bstop => exact of_next _ rfl (emitAll_live _ s)
  | encd v | enca v | rdbuf | sflip b | gflip | sbrt level on => exact of_next _ rfl rfl

/-- What a command leaves in LIVE is computed from N, LIVE and SCR. -/
theorem liveAfter_withFlip (b : Bool) (s : State) (i : Instr) : liveAfter { s with flip := b } i = liveAfter s i := by
  cases i with
  | commit len pos => simp only [liveAfter, copyScratch_eq, readScr]
  | clr => simp only [liveAfter, clearLive_eq]
  | init clr => simp only [liveAfter, clearLive_eq]
  | wseg | encd | enca | wscr | rdbuf | sflip | gflip | sbrt | bstart | bstop | bwrite => rfl

/-- Settles O55: the LIVE a command leaves, computed with either FLIP. -/
theorem liveIgnoresTheOrientation : Obligations.LiveIgnoresTheOrientation := by
  unfold Obligations.LiveIgnoresTheOrientation
  intro i s t b h
  obtain ⟨u, hu, -⟩ := exec_effect i { s with flip := b }
  refine ⟨u, hu, ?_⟩
  by_cases hr : OutOfRange s.width i
  · rw [exec_outOfRange hr] at h
    rw [exec_outOfRange (s := { s with flip := b }) hr] at hu
    rw [← Host.Outcome.next.inj h, ← Host.Outcome.next.inj hu]
    rfl
  · rw [exec_live_inRange h hr, exec_live_inRange hu hr, liveAfter_withFlip]

end Sys2Proof.Machine

/-! ## Proofs: BRIGHT shows only in the DISPLAY byte (60_exceptions.md R203)

Under another BRIGHT a command either commutes with the replacement, or flushes the same buffer, so that only the nibble of
the flush differs. SBRT alone writes BRIGHT, and reads nothing. -/

namespace Sys2Proof.Machine

/-- `s` with BRIGHT `v`. -/
def withBright (v : BitVec 4) (s : State) : State := { s with bright := v }

theorem emitAll_withBright (es : List Event) (v : BitVec 4) (s : State) :
    emitAll es (withBright v s) = withBright v (emitAll es s) := by
  rw [emitAll_eq, emitAll_eq]
  rfl

theorem writeByte_withBright (b : Byte) (v : BitVec 4) (s : State) :
    writeByte b (withBright v s) = withBright v (writeByte b s) := by
  rw [writeByte_eq, writeByte_eq]
  rfl

theorem copyScratch_withBright (len pos : Nat) (v : BitVec 4) (s : State) :
    copyScratch len pos (withBright v s) = withBright v (copyScratch len pos s) := by
  rw [copyScratch_eq, copyScratch_eq]
  rfl

theorem clearLive_withBright (v : BitVec 4) (s : State) :
    clearLive (withBright v s) = withBright v (clearLive s) := by
  rw [clearLive_eq, clearLive_eq]
  rfl

/-- From `s`, and from `s` with BRIGHT `v`, the command flushes one state `w` with the respective BRIGHT, having emitted
the same events before. -/
def FlushesUnderBright (i : Instr) (s t : State) (v : BitVec 4) : Prop :=
  ∃ w es, t = flushed w ∧ exec i (withBright v s) = .next (flushed (withBright v w)) ∧ w.tr = s.tr ++ es ∧
    w.cfg = s.cfg ∧ w.answer = s.answer ∧ w.bright = s.bright

/-- What a command other than SBRT does under another BRIGHT. -/
theorem exec_withBright {i : Instr} {s t : State} (h : exec i s = .next t) (hi : ∀ level on, i ≠ .sbrt level on)
    (v : BitVec 4) : exec i (withBright v s) = .next (withBright v t) ∨ FlushesUnderBright i s t v := by
  have commutes : ∀ u, exec i s = .next u → exec i (withBright v s) = .next (withBright v u) →
      exec i (withBright v s) = .next (withBright v t) ∨ FlushesUnderBright i s t v := fun u hs hu =>
    .inl (by rw [hu, Host.Outcome.next.inj (h.symm.trans hs)])
  have flushes : ∀ w es, exec i s = .next (flushed w) → exec i (withBright v s) = .next (flushed (withBright v w)) →
      w.tr = s.tr ++ es ∧ w.cfg = s.cfg ∧ w.answer = s.answer ∧ w.bright = s.bright →
      exec i (withBright v s) = .next (withBright v t) ∨ FlushesUnderBright i s t v := fun w es hs hu hw =>
    .inr ⟨w, es, Host.Outcome.next.inj (h.symm.trans hs), hu, hw⟩
  by_cases hr : OutOfRange s.width i
  · exact commutes _ (exec_outOfRange hr) (exec_outOfRange (s := withBright v s) hr)
  cases i with
  | wscr pos code =>
    have hp : pos.toNat < s.width := not_le.mp hr
    exact commutes _ (exec_wscr_inRange code hp) (exec_wscr_inRange (s := withBright v s) code hp)
  | wseg pos code =>
    have hp : pos.toNat < s.width := not_le.mp hr
    exact flushes _ [] (exec_wseg_inRange code hp) (exec_wseg_inRange (s := withBright v s) code hp)
      ⟨(List.append_nil _).symm, rfl, rfl, rfl⟩
  | commit len pos =>
    obtain ⟨hp, hl⟩ := not_or.mp hr
    have hu := exec_commit_inRange (s := withBright v s) (not_le.mp hp) (not_lt.mp hl)
    rw [copyScratch_withBright] at hu
    refine flushes _ [] (exec_commit_inRange (not_le.mp hp) (not_lt.mp hl)) hu ?_
    rw [copyScratch_eq]
    exact ⟨(List.append_nil _).symm, rfl, rfl, rfl⟩
  | clr =>
    have hu := exec_clr (withBright v s)
    rw [clearLive_withBright] at hu
    refine flushes _ [] (exec_clr s) hu ?_
    rw [clearLive_eq]
    exact ⟨(List.append_nil _).symm, rfl, rfl, rfl⟩
  | init clr =>
    cases clr with
    | false => exact commutes _ (exec_init_false s) (exec_init_false (withBright v s))
    | true =>
      refine flushes _ [.clkRel, .dioRel] (exec_init_true s) ((exec_init_true (withBright v s)).trans ?_) ?_
      · rw [← clearLive_withBright]
        rfl
      · rw [clearLive_eq]
        exact ⟨rfl, rfl, rfl, rfl⟩
  | sbrt level on => exact absurd rfl (hi level on)
  | bwrite b =>
    refine commutes _ rfl (congrArg Host.Outcome.next ?_)
    rw [writeByte_withBright]
    rfl
  | bstart | bstop => exact commutes _ rfl (congrArg Host.Outcome.next (emitAll_withBright _ v s))
  | encd | enca | rdbuf | sflip | gflip => exact commutes _ rfl rfl

/-- The events of a command that emits `es` and flushes `w`, for either BRIGHT. -/
theorem newEvents_flushed_withBright {s w : State} {es : List Event} (htr : w.tr = s.tr ++ es) (hcfg : w.cfg = s.cfg)
    (hanswer : w.answer = s.answer) (v : BitVec 4) :
    newEvents s (flushed (withBright v w)) = es ++ flushEvents s.cfg s.answer (wireData w) v := by
  refine newEvents_of_append ?_
  rw [← hcfg, ← hanswer, ← List.append_assoc, ← htr]
  rfl

/-- Settles O56: SBRT leaves one state whatever BRIGHT was, and every other command goes one of the two ways of
`exec_withBright`. -/
theorem brightnessChangesOnlyTheDisplayByte : Obligations.BrightnessChangesOnlyTheDisplayByte := by
  unfold Obligations.BrightnessChangesOnlyTheDisplayByte
  intro i s t v h
  by_cases hi : ∃ level on, i = .sbrt level on
  · obtain ⟨level, on, rfl⟩ := hi
    rw [← Host.Outcome.next.inj h]
    exact ⟨_, rfl, rfl, fun _ => rfl, fun hne => absurd rfl (hne level on), .inl rfl⟩
  · have hne : ∀ level on, i ≠ .sbrt level on := fun level on he => hi ⟨level, on, he⟩
    obtain hu | ⟨w, es, rfl, hu, htr, hcfg, hanswer, hbright⟩ := exec_withBright h hne v
    · exact ⟨_, hu, rfl, fun hsbrt => absurd hsbrt hi, fun _ => rfl, .inl rfl⟩
    · refine ⟨_, hu, rfl, fun hsbrt => absurd hsbrt hi, fun _ => rfl, .inr ⟨es, ?_, ?_⟩⟩
      · rw [wireData_flushed, ← hbright]
        exact newEvents_flushed_withBright htr hcfg hanswer w.bright
      · exact newEvents_flushed_withBright htr hcfg hanswer v

end Sys2Proof.Machine
